-- ==== Sys2Proof/Word.lean ====
section
/-! DEFINITION. The word types of the spec's notation (00_scope.md R6): bytes, byte sequences, and the two field
widths the block knows (24-bit addresses, 16-bit counts and start addresses). Every number is unsigned. -/

namespace Sys2Proof

/-- A byte: an unsigned 8-bit value (R6). -/
abbrev Byte := BitVec 8

/-- A finite sequence of bytes, element 0 first on the wire (R6, D31). -/
abbrev Bytes := List Byte

/-- A 24-bit target address (`ADDR_WIDTH`, R5). -/
abbrev Addr := BitVec 24

/-- A 16-bit count, length or start address (`COUNT_WIDTH`, `START_WIDTH`, R5). -/
abbrev Half := BitVec 16

/-- An opaque port identifier (`PORT_ID`, R5). Nothing in the model computes with it.
DESIGN CHOICE (log entry 15), safe: any type with equality would do. -/
abbrev PortId := Nat

end Sys2Proof
end

