-- ==== Sys2Proof/Config.lean ====
section
/-! DEFINITION. What an implementation fixes (00_scope.md R5) and the free values: the OPEN parameters of the spec and
the values it leaves open. The wire constants stand with the encodings, in Decode.lean. -/

namespace Sys2Proof

/-- The one flow-control setting the transport is ever given (R22, D28): RTS/CTS, enabled. -/
inductive FlowControl where
  | rtsCts
  deriving DecidableEq, Repr

/-- What the transport answers to one primitive (R7, D18). `ok` carries the bytes a read obtained (a write and an
open ignore them); `silent` is a transport that has not answered yet (R252, I16). -/
inductive Answer where
  | ok (bytes : Bytes)
  | ioError
  | silent
  deriving DecidableEq, Repr, Inhabited

/-- The Caller's synchronization policy, the OPEN parameter `SYNC_POLICY` (D22): issue `SYNC_COUNT` Syncs and give up
at the first failure, or retry until one succeeds, at most `attempts` times. It is no state of the block. -/
inductive SyncPolicy where
  | allThree
  | retry (attempts : Nat)
  deriving DecidableEq, Repr

/-- What the reference peer does with one frame where R65 leaves it open (log entries 20 and 27): the bytes it queues in
answer to a transfer past 0xFFFFFF, the bytes it stores of such a write, and how many bytes go with an undefined
opcode. -/
structure OpenFrame where
  answer : Bytes
  stores : List (Addr × Byte)
  taken  : Nat
  deriving DecidableEq, Repr, Inhabited

namespace Config

/-- `BAUD` (R5, R22). -/
def baud : Nat := 57600

/-- `FLOW_CONTROL` (R5, R22). -/
def flow : FlowControl := .rtsCts

/-- `MAX_XFER` (R5): the most bytes one read or write can move. -/
def maxXfer : Nat := 65535

/-- The number of target byte addresses (R50). -/
def addressSpace : Nat := 16777216

/-- `SYNC_COUNT` (R5, R242): the reference Caller's number of Syncs. Caller policy, not block state. -/
def syncCount : Nat := 3

/-- `USB_VID` (R5, R214): used by the excluded discovery layer only. -/
def usbVid : Half := 0x0403

/-- `USB_PID` (R5, R214): used by the excluded discovery layer only. -/
def usbPid : Half := 0x6001

/-- FREE VALUE (log entry 1, safe). `PEER`, the unconstrained oracle (D18): the answer to primitive number `n`. -/
opaque freeAnswer : Nat → Answer

/-- FREE VALUE (log entry 13, safe). How many bytes of a sequence had reached the board when its `TxWrite` came back
`IO_ERROR` (R7, D30, I13), for primitive number `n`; more than the sequence is long means all of it. -/
opaque sentPrefix : Nat → Nat

/-- FREE VALUE (log entry 13, safe). Whether byte `i` of the target range of a write whose body failed in primitive
number `n` holds its new value (R144, I3). -/
opaque storedNew : Nat → Nat → Bool

/-- FREE VALUE (log entries 20 and 27, safe). What R65 leaves open of the frame that the reference peer parses in round `k`
of primitive number `n`: any bytes, at any addresses (R57, D33), and any number of them. -/
opaque openFrame : Nat → Nat → OpenFrame

/-- FREE VALUE (log entry 26, safe). `RX_TIMEOUT` (R5, R213): a property of the transport. The block never reads it; a
timeout reaches the block as a short read. -/
opaque rxTimeout : Nat

end Config

end Sys2Proof
end

