-- ==== Sys2Proof/Syntax.lean ====
section
/-! DEFINITION. The instructions: one constructor per row of spec/opcode_table.json. R1 calls both the caller-side
operations and the wire commands they emit the block's instructions. -/

namespace Sys2Proof

/-- One command as it stands at the command port (10_state.md R31): the raw tuple. `data` may be longer than
`MAX_XFER`; such a command is refused (R142; log entry 24). -/
structure Command where
  op    : BitVec 3
  port  : PortId
  addr  : Addr
  count : Half
  data  : Bytes
  start : Half
  deriving DecidableEq, Repr

/-- The instructions, in the table's order. -/
inductive Instr where
  /-- `CMD_SYNC`, body `00` (R124). -/
  | cmdSync
  /-- `RESERVED_01`, opcode 0x01: "reserved/unused" (R75). -/
  | reserved01
  /-- `CMD_WRITE_MEM`, body `02 addr24 le16(len) data` (R141). -/
  | cmdWriteMem (addr : Addr) (data : Bytes)
  /-- `CMD_READ_MEM`, body `03 addr24 le16(count)` (R140). -/
  | cmdReadMem (addr : Addr) (count : Half)
  /-- `UNDEFINED_04`: listed, with no layout and no meaning (R75, C2). -/
  | undefined04
  /-- `CMD_EXEC`, body `05` (R160). -/
  | cmdExec
  /-- `UNDEFINED_06_07`, opcode `0000011x` (R75). -/
  | undefined0607 (low : BitVec 1)
  /-- `UNDEFINED_08_0F`, opcode `00001xxx` (R75). -/
  | undefined080F (low : BitVec 3)
  /-- `UNDEFINED_10_1F`, opcode `0001xxxx` (R75). -/
  | undefined101F (low : BitVec 4)
  /-- `UNDEFINED_20_3F`, opcode `001xxxxx` (R75). -/
  | undefined203F (low : BitVec 5)
  /-- `UNDEFINED_40_7F`, opcode `01xxxxxx` (R75). -/
  | undefined407F (low : BitVec 6)
  /-- `UNDEFINED_80_FF`, opcode `1xxxxxxx` (R75). -/
  | undefined80FF (low : BitVec 7)
  /-- `HOST_OPEN`, `CMD_OP` 0 (R101). -/
  | hostOpen (port : PortId)
  /-- `HOST_CLOSE`, `CMD_OP` 1 (R102). -/
  | hostClose
  /-- `HOST_SYNCHRONIZE`, `CMD_OP` 2 (R124). -/
  | hostSynchronize
  /-- `HOST_READ_MEMORY`, `CMD_OP` 3 (R140). -/
  | hostReadMemory (addr : Addr) (count : Half)
  /-- `HOST_WRITE_MEMORY`, `CMD_OP` 4 (R141). -/
  | hostWriteMemory (addr : Addr) (data : Bytes)
  /-- `HOST_RUN_PROGRAM`, `CMD_OP` 5 (R161). -/
  | hostRunProgram (start : Half)
  /-- `HOST_RESERVED_6`, `CMD_OP` 6: refused (R206). -/
  | hostReserved6
  /-- `HOST_RESERVED_7`, `CMD_OP` 7: refused (R206). -/
  | hostReserved7
  deriving DecidableEq, Repr

end Sys2Proof
end

