-- ==== Sys2Proof/WellFormed.lean ====
section
/-! DEFINITION. Which instructions an encoding exists for. -/

namespace Sys2Proof

/-- Well-formed: the instruction has an encoding. The one limit beyond the field widths is the 16-bit length field of
`WRITE_MEM` (30_encoding.md R88: `len(d) <= 65535`). A command-port write of more data is well-formed: the port can
present it, and the block then refuses it (R142). -/
def Instr.wf : Instr → Bool
  | .cmdSync => true
  | .reserved01 => true
  | .cmdWriteMem _ data => decide (data.length ≤ Config.maxXfer)
  | .cmdReadMem _ _ => true
  | .undefined04 => true
  | .cmdExec => true
  | .undefined0607 _ => true
  | .undefined080F _ => true
  | .undefined101F _ => true
  | .undefined203F _ => true
  | .undefined407F _ => true
  | .undefined80FF _ => true
  | .hostOpen _ => true
  | .hostClose => true
  | .hostSynchronize => true
  | .hostReadMemory _ _ => true
  | .hostWriteMemory _ _ => true
  | .hostRunProgram _ => true
  | .hostReserved6 => true
  | .hostReserved7 => true

end Sys2Proof
end

