-- ==== Sys2Proof/Decode.lean ====
section
/-! DEFINITION. The frame encoder and decoder (30_encoding.md): wire constants, field encodings, the body decoder and
encoder, the RegisterBlock, and the command-port encoding. Decoders come first, encoders after them. -/

namespace Sys2Proof

/-- `PREAMBLE` (R71). -/
def preamble : Bytes := [0x55, 0xAA]

/-- `ACK_BYTE` (R72). -/
def ackByte : Byte := 0xCC

/-- `SYNC_OK` (R80). -/
def syncOk : Byte := 0x00

/-- `OP_SYNC` (R74). -/
def opSync : Byte := 0x00

/-- `OP_WRITE` (R74). -/
def opWrite : Byte := 0x02

/-- `OP_READ` (R74). -/
def opRead : Byte := 0x03

/-- `OP_EXEC` (R74). -/
def opExec : Byte := 0x05

/-- `REGBLOCK_BASE` (R58). -/
def regblockBase : Addr := 0x007E00

/-- `REGBLOCK_SIZE` (R82, C1). -/
def regblockSize : Nat := 16

/-- `REG_SP_INIT` (R83). -/
def regSpInit : Byte := 0xFF

/-- `REG_MODE` (R83): a configuration constant; what it selects is not modelled (I9). -/
def regMode : Byte := 0x01

/-! ### Decoding -/

/-- `dec16(b0, b1)` (R78). -/
def dec16 (b0 b1 : Byte) : Half := b0.setWidth 16 ||| (b1.setWidth 16 <<< 8)

/-- `dec24(b0, b1, b2)` (R78). -/
def dec24 (b0 b1 b2 : Byte) : Addr := b0.setWidth 24 ||| (b1.setWidth 24 <<< 8) ||| (b2.setWidth 24 <<< 16)

/-- What the body decoder answers (R85): a command and how many bytes it took, not enough bytes yet, or an opcode no
command has. -/
inductive Verdict where
  | command (i : Instr) (consumed : Nat)
  | incomplete
  | invalid (op : Byte)
  deriving DecidableEq, Repr

/-- `decode_body` (R85), total on any byte sequence. -/
def decodeBody (s : Bytes) : Verdict :=
  match s with
  | [] => .incomplete
  | op :: rest =>
    if op = opSync then .command .cmdSync 1
    else if op = opExec then .command .cmdExec 1
    else if op = opRead then
      match rest with
      | a0 :: a1 :: a2 :: c0 :: c1 :: _ => .command (.cmdReadMem (dec24 a0 a1 a2) (dec16 c0 c1)) 6
      | _ => .incomplete
    else if op = opWrite then
      match rest with
      | a0 :: a1 :: a2 :: n0 :: n1 :: tail =>
        let n := (dec16 n0 n1).toNat
        if tail.length < n then .incomplete
        else .command (.cmdWriteMem (dec24 a0 a1 a2) (tail.take n)) (6 + n)
      | _ => .incomplete
    else .invalid op

/-- The row of the opcode table that an undefined opcode byte selects (R74, R75); `none` for the four defined ones. -/
def undefinedRow (op : Byte) : Option Instr :=
  if op = 0x01 then some .reserved01
  else if op = 0x04 then some .undefined04
  else if op.extractLsb' 1 7 = 0x03 then some (.undefined0607 (op.extractLsb' 0 1))
  else if op.extractLsb' 3 5 = 0x01 then some (.undefined080F (op.extractLsb' 0 3))
  else if op.extractLsb' 4 4 = 0x01 then some (.undefined101F (op.extractLsb' 0 4))
  else if op.extractLsb' 5 3 = 0x01 then some (.undefined203F (op.extractLsb' 0 5))
  else if op.extractLsb' 6 2 = 0x01 then some (.undefined407F (op.extractLsb' 0 6))
  else if op.extractLsb' 7 1 = 0x01 then some (.undefined80FF (op.extractLsb' 0 7))
  else none

/-- The operation a command-port tuple asks for (R31, R89). Operands an operation does not use are ignored. -/
def decodeCommand (c : Command) : Instr :=
  if c.op = 0 then .hostOpen c.port
  else if c.op = 1 then .hostClose
  else if c.op = 2 then .hostSynchronize
  else if c.op = 3 then .hostReadMemory c.addr c.count
  else if c.op = 4 then .hostWriteMemory c.addr c.data
  else if c.op = 5 then .hostRunProgram c.start
  else if c.op = 6 then .hostReserved6
  else .hostReserved7

/-- An instruction as it is encoded: the bytes of a wire body, or a command-port tuple. The two kinds of row of the
opcode table are two separate encodings. -/
inductive Encoded where
  | body (bytes : Bytes)
  | port (c : Command)
  deriving DecidableEq, Repr

/-- Why bytes are no instruction. -/
inductive Reject where
  /-- The body has fewer bytes than its opcode and length field call for (R85 `INCOMPLETE`). -/
  | incomplete
  /-- The body is followed by `extra` more bytes. -/
  | trailing (extra : Nat)
  deriving DecidableEq, Repr

/-- The instruction a whole encoding stands for. R74 gives an undefined opcode no body length, and N4 says that no payload
may be assumed: that its encoding is the opcode byte alone, and more bytes are trailing ones, is the model's choice (DESIGN
CHOICE, log entry 36). -/
def decode : Encoded → Except Reject Instr
  | .port c => .ok (decodeCommand c)
  | .body s =>
    match decodeBody s with
    | .command i k => if s.length = k then .ok i else .error (.trailing (s.length - k))
    | .incomplete => .error .incomplete
    | .invalid op =>
      match undefinedRow op with
      | some i => if s.length = 1 then .ok i else .error (.trailing (s.length - 1))
      | none => .error .incomplete

/-! ### Encoding -/

/-- `le16(v)` (R77): low byte first. -/
def le16 (v : Half) : Bytes := [v.extractLsb' 0 8, v.extractLsb' 8 8]

/-- `addr24(a)` (R76): the low word as a little-endian u16, then the high byte. -/
def addr24 (a : Addr) : Bytes := le16 (a.extractLsb' 0 16) ++ [a.extractLsb' 16 8]

/-- `encode_regblock(start)` (R84), the 16-byte RegisterBlock of R82: A, X, Y, PC, then DP, reserved, SP, reserved,
reserved, MODE, reserved, reserved. -/
def encodeRegblock (start : Half) : Bytes :=
  le16 0x0000 ++ le16 0x0000 ++ le16 0x0000 ++ le16 start
    ++ [0x00, 0x00, regSpInit, 0x00, 0x00, regMode, 0x00, 0x00]

/-- `encode_body` (R88): the body the block sends in step 3 of an exchange. No other instruction has one. -/
def encodeBody : Instr → Option Bytes
  | .cmdSync => some [opSync]
  | .cmdReadMem addr count => some ([opRead] ++ addr24 addr ++ le16 count)
  | .cmdWriteMem addr data => some ([opWrite] ++ addr24 addr ++ le16 (BitVec.ofNat 16 data.length) ++ data)
  | .cmdExec => some [opExec]
  | .reserved01 => none
  | .undefined04 => none
  | .undefined0607 _ => none
  | .undefined080F _ => none
  | .undefined101F _ => none
  | .undefined203F _ => none
  | .undefined407F _ => none
  | .undefined80FF _ => none
  | .hostOpen _ => none
  | .hostClose => none
  | .hostSynchronize => none
  | .hostReadMemory _ _ => none
  | .hostWriteMemory _ _ => none
  | .hostRunProgram _ => none
  | .hostReserved6 => none
  | .hostReserved7 => none

/-- The command tuple with the given code and every operand zero. -/
def bareCommand (op : BitVec 3) : Command :=
  { op := op, port := 0, addr := 0, count := 0, data := [], start := 0 }

/-- The encoding of every row of the opcode table. An undefined row's encoding is its opcode byte (DESIGN CHOICE, log entry
36), which the block itself never sends (`encodeBody` has none for it, R75). -/
def encode : Instr → Encoded
  | .cmdSync => .body [opSync]
  | .reserved01 => .body [0x01]
  | .cmdWriteMem addr data => .body ([opWrite] ++ addr24 addr ++ le16 (BitVec.ofNat 16 data.length) ++ data)
  | .cmdReadMem addr count => .body ([opRead] ++ addr24 addr ++ le16 count)
  | .undefined04 => .body [0x04]
  | .cmdExec => .body [opExec]
  | .undefined0607 low => .body [(0x03 : BitVec 7) ++ low]
  | .undefined080F low => .body [(0x01 : BitVec 5) ++ low]
  | .undefined101F low => .body [(0x01 : BitVec 4) ++ low]
  | .undefined203F low => .body [(0x01 : BitVec 3) ++ low]
  | .undefined407F low => .body [(0x01 : BitVec 2) ++ low]
  | .undefined80FF low => .body [(0x01 : BitVec 1) ++ low]
  | .hostOpen port => .port { bareCommand 0 with port := port }
  | .hostClose => .port (bareCommand 1)
  | .hostSynchronize => .port (bareCommand 2)
  | .hostReadMemory addr count => .port { bareCommand 3 with addr := addr, count := count }
  | .hostWriteMemory addr data => .port { bareCommand 4 with addr := addr, data := data }
  | .hostRunProgram start => .port { bareCommand 5 with start := start }
  | .hostReserved6 => .port (bareCommand 6)
  | .hostReserved7 => .port (bareCommand 7)

/-- The length of the response payload after the ack (R80, R81); 0 for whatever has none. R74 gives an undefined opcode
no response, and N4 says that none may be assumed: its 0 is a filler that no step uses (DESIGN CHOICE, log entry 36). -/
def responseLength : Instr → Nat
  | .cmdSync => 1
  | .cmdReadMem _ count => count.toNat
  | .cmdWriteMem _ _ => 0
  | .cmdExec => 0
  | .reserved01 => 0
  | .undefined04 => 0
  | .undefined0607 _ => 0
  | .undefined080F _ => 0
  | .undefined101F _ => 0
  | .undefined203F _ => 0
  | .undefined407F _ => 0
  | .undefined80FF _ => 0
  | .hostOpen _ => 0
  | .hostClose => 0
  | .hostSynchronize => 0
  | .hostReadMemory _ _ => 0
  | .hostWriteMemory _ _ => 0
  | .hostRunProgram _ => 0
  | .hostReserved6 => 0
  | .hostReserved7 => 0

/-! ### Words as the opcode table numbers them -/

/-- The `n` bytes of a word, byte 0 (bits 7:0) first. -/
def bytesOfWord : Nat → Nat → Bytes
  | 0, _ => []
  | n + 1, w => BitVec.ofNat 8 w :: bytesOfWord n (w / 256)

/-- How many bytes the body that begins so must have (R81), where the bytes above those given are 0. -/
def bodyLength (s : Bytes) : Nat :=
  match s ++ [0, 0, 0, 0, 0, 0] with
  | op :: _ :: _ :: _ :: n0 :: n1 :: _ =>
    if op = opRead then 6 else if op = opWrite then 6 + (dec16 n0 n1).toNat else 1
  | _ => 1

/-- The instruction whose bits are `w`, `nbits` of them given and all above them 0. The table numbers its two kinds of
row over the same low bits: `HOST_OP` rows are matched on `CMD_OP[2:0]` and wire rows on the byte `body[0]`, so a value
below 8 is a word of both. DESIGN CHOICE (log entry 9), safe: up to 8 bits, a value below 8 is read as the command-port
code, which is what the block fetches, and any other as an opcode byte; more than 8 bits are read as a wire body. -/
def decodeTableWord (nbits w : Nat) : Option Instr :=
  if nbits ≤ 8 ∧ w < 8 then some (decodeCommand (bareCommand (BitVec.ofNat 3 w)))
  else
    let given := bytesOfWord ((nbits + 7) / 8) w
    let s := given ++ List.replicate (bodyLength given - given.length) 0
    match decodeBody s with
    | .command i _ => some i
    | .incomplete => none
    | .invalid op => undefinedRow op

end Sys2Proof
end

