-- ==== Sys2Proof/Machine/State.lean ====
section
/-! DEFINITION. The state: every register of the block (10_state.md R20), its three ports and reset input, and the
environment behind the transport port. Plain data throughout. -/

namespace Sys2Proof.Machine

/-- `CONN` (R21). -/
inductive Conn where
  | disconnected
  | connected
  deriving DecidableEq, Repr

/-- `PHASE` (R24), the position of the exchange sequencer. -/
inductive Phase where
  | idle
  | txPre
  | rxAck
  | txBody
  | rxResp
  deriving DecidableEq, Repr

/-- `XOP` (R25), the exchange in flight. -/
inductive XOp where
  | none
  | sync
  | read
  | write
  | exec
  deriving DecidableEq, Repr

/-- `RUNSEQ` (R25), the stage of a `runProgram`. -/
inductive RunSeq where
  | none
  | regs
  | exec
  deriving DecidableEq, Repr

/-- `THANDLE` when one is held (R23). DESIGN CHOICE (log entry 14), safe: the handle is named by the port it was
acquired on; nothing computes with it. -/
structure Handle where
  port : PortId
  deriving DecidableEq, Repr

/-- `TCFG` as it is read (R22): only `PORT_ID` is stored, `BAUD` and `FLOW` are hardwired. -/
structure TCfg where
  portId : PortId
  baud   : Nat
  flow   : FlowControl
  deriving DecidableEq, Repr

/-- A transport primitive (R7, R33). -/
inductive Prim where
  | tOpen (port : PortId) (baud : Nat) (flow : FlowControl)
  | tClose
  | txWrite (s : Bytes)
  | rxRead (n : Nat)
  deriving DecidableEq, Repr

/-- One primitive that the block issued and the transport answered. -/
structure Event where
  prim   : Prim
  answer : Answer
  deriving DecidableEq, Repr

/-- What the response port delivers (R32). -/
structure Response where
  result : BitVec 32
  rdata  : Bytes
  deriving DecidableEq, Repr

/-- Target memory (R50): the listed (address, byte) pairs. -/
abbrev Memory := List Host.Cell

/-- What a byte of target memory reads as where nothing is listed. DESIGN CHOICE (log entry 4), unsafe: R65 has the
initial contents given per test, and the spec's programs start with `PM` all zero. -/
def unlistedByte : Byte := 0

/-- The canonical form: addresses strictly rising and inside the 24-bit space, no entry equal to what an unlisted
address reads as. -/
def Memory.wf : Memory → Bool
  | [] => true
  | [(a, v)] => decide (a < Config.addressSpace) && decide (v ≠ unlistedByte)
  | (a, v) :: (b, w) :: rest => decide (a < b) && decide (v ≠ unlistedByte) && Memory.wf ((b, w) :: rest)

/-- Which board stands behind the transport: one whose answers are unconstrained (D18), or the reference peer, a test
fixture and no claim about a real board (R65, D17). -/
inductive Board where
  | unconstrained
  | reference
  deriving DecidableEq, Repr

/-- The reference peer's state (20_memory.md R65). `lost` is set where the spec says that every later answer is
unconstrained; `expectBody` says that an ack has been queued and a body is due. -/
structure Peer where
  mem        : Memory
  q          : Bytes
  inbuf      : Bytes
  expectBody : Bool
  executed   : Bool
  record     : Option Bytes
  lost       : Bool
  deriving DecidableEq, Repr

/-- The environment behind the transport port. `script` gives the next primitives their answers, one entry each, `none`
leaving that primitive to the board; `draws` is the model's own counter, which numbers the primitives so that each
free answer is a fresh one. -/
structure Env where
  script : List (Option Answer)
  board  : Board
  peer   : Peer
  draws  : Nat
  deriving DecidableEq, Repr

/-- The machine. -/
structure State where
  /-- `CONN` (R21). -/
  conn      : Conn
  /-- `TCFG.PORT_ID` (R22). -/
  portId    : PortId
  /-- `THANDLE` (R23). -/
  thandle   : Option Handle
  /-- `PHASE` (R24). -/
  phase     : Phase
  /-- `XOP` (R25). -/
  xop       : XOp
  /-- `RUNSEQ` (R25). -/
  runseq    : RunSeq
  /-- `ADDR` (R26). -/
  addr      : Addr
  /-- `COUNT` (R26). -/
  count     : Half
  /-- `DATA` (R26). -/
  data      : Bytes
  /-- `START` (R26). -/
  start     : Half
  /-- `RDATA` (R27). -/
  rdata     : Bytes
  /-- `RESULT` (R28). -/
  result    : BitVec 32
  /-- `STATUS.FAULT` (R29). -/
  fault     : Bool
  /-- `STATUS.REFUSED` (R29). -/
  refused   : Bool
  /-- The command port (R31): the commands the Caller holds ready, the next one first. -/
  cmds      : List Command
  /-- The response port (R32): the responses delivered, oldest first. -/
  responses : List Response
  /-- The transport port (R33): the primitives issued and answered, oldest first. -/
  trace     : List Event
  /-- The reset input (R241). -/
  resetReq  : Bool
  /-- What answers at the transport port. -/
  env       : Env
  deriving DecidableEq, Repr

/-- Why a step stops. Both are safe: the machine stops and nothing is claimed of what follows. -/
inductive Fault where
  /-- Raised by every meaning and by the step while `STATUS.FAULT` is 1: "the block takes no further step" (R29, R206).
  Safe: it is the spec's own stop. -/
  | quiescent
  /-- Raised by the step when `PHASE` is not `IDLE` and `XOP` is `NONE`, a position R24 and R25 rule out and no run
  reaches (log entry 18). Safe. -/
  | noExchange
  deriving DecidableEq, Repr

/-- Why an instruction is given no meaning. -/
inductive Refusal where
  /-- An instruction the model has no meaning for yet, by its mnemonic. Safe. -/
  | notModelled (mnemonic : String)
  /-- Raised by the meanings of the eight wire rows of R75, whose opcodes the block never emits and to which "a model
  gives ... no meaning" (I4, I5, I6: `refuse`). Safe. -/
  | undefinedOpcode (op : Byte)
  deriving DecidableEq, Repr

/-- The reference peer before anything has reached it (R65): `Q` empty, `EXECUTED` false; the rest DESIGN CHOICE (log
entries 2 and 4). -/
def Peer.initial : Peer :=
  { mem := [], q := [], inbuf := [], expectBody := false, executed := false, record := none, lost := false }

/-- The environment at reset: the unconstrained oracle, no script (DESIGN CHOICE, log entries 1 and 2). -/
def Env.initial : Env :=
  { script := [], board := .unconstrained, peer := Peer.initial, draws := 0 }

/-- The machine right after reset (70_reset_and_hazards.md R240). `TCFG.PORT_ID`, `ADDR`, `COUNT`, `DATA` and `START`
have no reset value in the spec: zero and `[]`, DESIGN CHOICE (log entry 3), unsafe. -/
def State.reset : State :=
  { conn := .disconnected, portId := 0, thandle := none, phase := .idle, xop := .none, runseq := .none
    addr := 0, count := 0, data := [], start := 0, rdata := [], result := 0, fault := false, refused := false
    cmds := [], responses := [], trace := [], resetReq := false, env := Env.initial }

end Sys2Proof.Machine
end

