-- ==== Sys2Proof/Machine/Flags.lean ====
section
/-! DEFINITION. The outcome and status words: `RESULT` (10_state.md R28) and `STATUS` (R29). -/

namespace Sys2Proof.Machine

/-- The causes of a `TransportError` (60_exceptions.md R201). -/
inductive TransportCause where
  | openFailed
  | writeFailed
  | readFailed
  deriving DecidableEq, Repr

/-- The causes of a `ProtocolError` or `SyncFailure`, with what was received (R202, R203). -/
inductive ProtocolCause where
  | badAck (byte : Byte)
  | shortAck
  | badStatus (byte : Byte)
  | shortResponse (got : Nat)
  deriving DecidableEq, Repr

/-- The error outcomes an operation can raise (R200). `isSync` makes a protocol failure a `SyncFailure` (D10). -/
inductive OpError where
  | transport (cause : TransportCause)
  | protocol (isSync : Bool) (cause : ProtocolCause)
  | notConnected
  deriving DecidableEq, Repr

/-- The `RESULT` word of its fields (R28): `KIND | CAUSE<<3 | STAGE<<5 | GOT_BYTE<<8 | GOT_COUNT<<16`. -/
def resultWord (kind : BitVec 3) (cause : BitVec 2) (stage : Bool) (gotByte : Byte) (gotCount : Half) : BitVec 32 :=
  gotCount ++ gotByte ++ (0 : BitVec 2) ++ BitVec.ofBool stage ++ cause ++ kind

/-- `RESULT.KIND`. -/
def resultKind (r : BitVec 32) : BitVec 3 := r.extractLsb' 0 3

/-- `RESULT.CAUSE`. -/
def resultCause (r : BitVec 32) : BitVec 2 := r.extractLsb' 3 2

/-- `RESULT.STAGE`. -/
def resultStage (r : BitVec 32) : Bool := r.getLsbD 5

/-- `RESULT[7:6]`, reserved. -/
def resultReserved (r : BitVec 32) : BitVec 2 := r.extractLsb' 6 2

/-- `RESULT.GOT_BYTE`. -/
def resultGotByte (r : BitVec 32) : Byte := r.extractLsb' 8 8

/-- `RESULT.GOT_COUNT`. -/
def resultGotCount (r : BitVec 32) : Half := r.extractLsb' 16 16

/-- `KIND = OK`. -/
def resultOk : BitVec 32 := 0

/-- The `CAUSE` code of a transport error (R28). -/
def TransportCause.code : TransportCause → BitVec 2
  | .openFailed => 0
  | .writeFailed => 1
  | .readFailed => 2

/-- The `CAUSE` code of a protocol failure (R28). -/
def ProtocolCause.code : ProtocolCause → BitVec 2
  | .badAck _ => 0
  | .shortAck => 1
  | .badStatus _ => 2
  | .shortResponse _ => 3

/-- `GOT_BYTE`: the byte received, for `BAD_ACK` and `BAD_STATUS`; else 0 (R28). -/
def ProtocolCause.gotByte : ProtocolCause → Byte
  | .badAck b => b
  | .shortAck => 0
  | .badStatus b => b
  | .shortResponse _ => 0

/-- `GOT_COUNT`: the number of bytes the failing read received, for `SHORT_ACK` and `SHORT_RESPONSE`; else 0 (R28). -/
def ProtocolCause.gotCount : ProtocolCause → Half
  | .badAck _ => 0
  | .shortAck => 0
  | .badStatus _ => 0
  | .shortResponse n => BitVec.ofNat 16 n

/-- The `RESULT` word an error sets (R28, R200). `STAGE` marks an error that arose in the Execute exchange of
`runProgram`. -/
def OpError.word (stage : Bool) : OpError → BitVec 32
  | .transport c => resultWord 1 c.code stage 0 0
  | .protocol isSync c => resultWord (if isSync then 3 else 2) c.code stage c.gotByte c.gotCount
  | .notConnected => resultWord 4 0 false 0 0

/-- `BUSY`: an exchange is in flight (R24). -/
def State.busy (s : State) : Bool := decide (s.phase ≠ .idle)

/-- `STATUS` (R29): `CONNECTED`, `BUSY`, `FAULT`, `REFUSED` in bits 0 to 3, the rest 0. The first two mirror `CONN` and
`PHASE`. How the Caller reads it is left open: R214 has it reached through the ports, and R31 and R32 carry it on none. The
model gives it as a view of the state and on no port (DESIGN CHOICE, log entry 38). -/
def State.status (s : State) : BitVec 8 :=
  (0 : BitVec 4) ++ BitVec.ofBool s.refused ++ BitVec.ofBool s.fault ++ BitVec.ofBool s.busy
    ++ BitVec.ofBool (decide (s.conn = .connected))

/-- `TCFG` as it is read (R22): `BAUD` and `FLOW` are hardwired. -/
def State.tcfg (s : State) : TCfg :=
  { portId := s.portId, baud := Config.baud, flow := Config.flow }

end Sys2Proof.Machine
end

