-- ==== Sys2Proof/Machine/Memory.lean ====
section
/-! DEFINITION. Reading and writing the reference peer's target memory (20_memory.md R50, R65): bytes at Nat addresses,
wider accesses built from single bytes in address order (R52). -/

namespace Sys2Proof.Machine

/-- `PM[a]`. -/
def Memory.read (m : Memory) (a : Nat) : Byte :=
  match m with
  | [] => unlistedByte
  | (b, v) :: rest => if b = a then v else Memory.read rest a

/-- `PM[a] <- v`, keeping the canonical form: writing what an unlisted address reads as removes the entry. -/
def Memory.write (m : Memory) (a : Nat) (v : Byte) : Memory :=
  match m with
  | [] => if v = unlistedByte then [] else [(a, v)]
  | (b, w) :: rest =>
    if a < b then (if v = unlistedByte then (b, w) :: rest else (a, v) :: (b, w) :: rest)
    else if a = b then (if v = unlistedByte then rest else (a, v) :: rest)
    else (b, w) :: Memory.write rest a v

/-- `MemRead(a, n)` (R65): `[PM[a], ..., PM[a+n-1]]`. -/
def Memory.readBytes (m : Memory) (a : Nat) : Nat → Bytes
  | 0 => []
  | n + 1 => Memory.read m a :: Memory.readBytes m (a + 1) n

/-- `MemWrite(a, n, v)` (R65): `PM[a+i] <- v[i]` for each `i < n`. -/
def Memory.writeBytes (m : Memory) (a : Nat) : Bytes → Memory
  | [] => m
  | v :: rest => Memory.writeBytes (Memory.write m a v) (a + 1) rest

/-- The range `[a, a+len-1]` after a write that failed on its way (R144, I3): byte `i` of the range holds its new value
where `stored i` says so and its old value elsewhere. `i` counts on from the first argument. -/
def Memory.writeSome (stored : Nat → Bool) (i : Nat) (m : Memory) (a : Nat) : Bytes → Memory
  | [] => m
  | v :: rest =>
    Memory.writeSome stored (i + 1) (if stored i then Memory.write m a v else m) (a + 1) rest

/-- Store each of these bytes at its address, one after the other. -/
def Memory.storeAll (m : Memory) : List (Addr × Byte) → Memory
  | [] => m
  | c :: rest => Memory.storeAll (Memory.write m c.1.toNat c.2) rest

/-- The transfer of `n` bytes at `a` stays inside the address space (R57, R65: `a + n <= 2^24`). -/
def inRange (a : Addr) (n : Nat) : Bool := decide (a.toNat + n ≤ Config.addressSpace)

end Sys2Proof.Machine
end

