-- ==== Sys2Proof/Machine/Peer.lean ====
section
/-! DEFINITION. The reference peer (20_memory.md R65), the test fixture that stands for the board. It is the spec's
choice and no claim about a real board (D17). -/

namespace Sys2Proof.Machine

/-- What the fixture does with a body it has decoded (R65, `case cmd`). Of a transfer past 0xFFFFFF the answer, and what
such a write stores, is the free `o` (R57, D33; log entry 20). After an `EXEC` every later answer is unconstrained (D25; log
entry 21; `Peer.afterExecute` is the block's side of that). -/
def Peer.perform (o : OpenFrame) (p : Peer) : Instr → Peer
  | .cmdSync => { p with q := p.q ++ [syncOk] }
  | .cmdReadMem a c =>
    { p with q := p.q ++ if inRange a c.toNat then Memory.readBytes p.mem a.toNat c.toNat else o.answer }
  | .cmdWriteMem a d =>
    if inRange a d.length then { p with mem := Memory.writeBytes p.mem a.toNat d }
    else { p with mem := Memory.storeAll p.mem o.stores, q := p.q ++ o.answer }
  | .cmdExec =>
    { p with
      executed := true
      record := some (Memory.readBytes p.mem regblockBase.toNat regblockSize)
      lost := true }
  | .reserved01 | .undefined04 | .undefined0607 _ | .undefined080F _ | .undefined101F _ | .undefined203F _
  | .undefined407F _ | .undefined80FF _ | .hostOpen _ | .hostClose | .hostSynchronize | .hostReadMemory _ _
  | .hostWriteMemory _ _ | .hostRunProgram _ | .hostReserved6 | .hostReserved7 => { p with lost := true }

/-- One round of the fixture's parsing of `INBUF` (R65); `none` where it changes nothing. Parsing goes on whether or not the
later answers are unconstrained. How many bytes go with an undefined opcode is the free `o.taken`; bytes at a frame start
that are no preamble are not taken, so nothing after them is either (log entry 27). -/
def Peer.parseOnce (o : OpenFrame) (p : Peer) : Option Peer :=
  if p.expectBody then
    match decodeBody p.inbuf with
    | .command i k => some (Peer.perform o { p with inbuf := p.inbuf.drop k, expectBody := false } i)
    | .incomplete => none
    | .invalid _ => some { p with inbuf := p.inbuf.drop o.taken, expectBody := false, lost := true }
  else if p.inbuf.take 2 = preamble then
    some { p with inbuf := p.inbuf.drop 2, q := p.q ++ [ackByte], expectBody := true }
  else if 2 ≤ p.inbuf.length ∧ p.lost = false then some { p with lost := true }
  else none

/-- Parse repeatedly (R65), at most `fuel` rounds, each with an open part of its own. A preamble takes two bytes, at most one
body follows it, and misframed bytes are noticed once: `INBUF` and two more rounds are enough. -/
def Peer.parse (o : Nat → OpenFrame) : Nat → Peer → Peer
  | 0, p => p
  | fuel + 1, p =>
    match Peer.parseOnce (o fuel) p with
    | some p' => Peer.parse o fuel p'
    | none => p

/-- The bytes of a `TxWrite` reach the fixture (R65): append them to `INBUF`, then parse. -/
def Peer.receive (p : Peer) (o : Nat → OpenFrame) (s : Bytes) : Peer :=
  let p' := { p with inbuf := p.inbuf ++ s }
  Peer.parse o (p'.inbuf.length + 2) p'

/-- A successful `Execute` of the block, its body the one write `05`, leaves the answers to every later exchange
unconstrained (R163, D25), whatever the fixture took the byte for. -/
def Peer.afterExecute (s : Bytes) (p : Peer) : Peer := if s = [opExec] then { p with lost := true } else p

/-- The write whose body these bytes are, where the peer stands at its start (R144). Where `INBUF` holds an unfinished body
the bytes are no body to the peer, and R65 with D30 alone says what their prefix does; that R144's old and new bytes are
not applied there is the model's choice (DESIGN CHOICE, log entry 35). -/
def Peer.failedTarget (p : Peer) (s : Bytes) : Option (Addr × Bytes) :=
  if p.expectBody = true ∧ p.inbuf = [] then
    match decodeBody s with
    | .command (.cmdWriteMem a d) _ => some (a, d)
    | _ => none
  else none

/-- What a write that failed on its way leaves in memory (R56, R144, I3): each byte of its range inside the address space
is old or new. No other byte changes, but for the free `stray` stores of a range that passes 0xFFFFFF (R57; log entry
20). -/
def Peer.failedWrite (p : Peer) (stored : Nat → Bool) (stray : List (Addr × Byte)) (a : Addr) (d : Bytes) : Peer :=
  let mem := if inRange a d.length then p.mem else Memory.storeAll p.mem stray
  { p with mem := Memory.writeSome stored 0 mem a.toNat (d.take (Config.addressSpace - a.toNat)) }

/-- A `TxWrite` that came back `IO_ERROR` (R7, D30): the first `sent` bytes, and no more, have reached the fixture. The
range of a write that so failed holds old and new bytes only (R56): a range past the end runs to 0xFFFFFF, so a stray store
lies before it. -/
def Peer.receiveFailed (p : Peer) (sent : Nat) (stored : Nat → Bool) (o : Nat → OpenFrame) (s : Bytes) : Peer :=
  match Peer.failedTarget p s with
  | none => Peer.receive p o (s.take sent)
  | some (a, d) =>
    let before := fun k => { o k with stores := (o k).stores.filter (fun c => decide (c.1.toNat < a.toNat)) }
    Peer.receive (Peer.failedWrite p stored (before 0).stores a d) before (s.take sent)

end Sys2Proof.Machine
end

