-- ==== Sys2Proof/Machine/Ops.lean ====
section
/-! DEFINITION. The operations every meaning is built from: issuing a transport primitive and taking its answer, ending
an operation (success, `raise`, refusal, fault), reset, and the guard under which the block takes a step. -/

namespace Sys2Proof.Machine

/-! ### The transport port -/

/-- What a primitive makes of an answer (R7): an open or a write carries no bytes, and `RxRead(n)` returns at most `n`
of them. -/
def Prim.fit : Prim → Answer → Answer
  | .tOpen _ _ _, .ok _ => .ok []
  | .tClose, .ok _ => .ok []
  | .txWrite _, .ok _ => .ok []
  | .rxRead n, .ok s => .ok (s.take n)
  | _, .ioError => .ioError
  | _, .silent => .silent

/-- The answer the script fixes for the next primitive, if it fixes one. -/
def Env.scripted (e : Env) : Option Answer :=
  match e.script with
  | some a :: _ => some a
  | _ => none

/-- The answer of the board itself: the oracle's (D18), or the fixture's (R65) as long as it gives
one: a read is answered from `Q`, and an open or a write is `OK`. -/
def Env.boardAnswer (e : Env) : Answer :=
  match e.board with
  | .unconstrained => Config.freeAnswer e.draws
  | .reference => if e.peer.lost then Config.freeAnswer e.draws else .ok e.peer.q

/-- The answer to a primitive. `TClose` has none to give and always succeeds (R7, D34). -/
def Env.answer (e : Env) (p : Prim) : Answer :=
  if p = .tClose then .ok []
  else p.fit (e.scripted.getD e.boardAnswer)

/-- What a primitive and its answer do to the fixture (R65, R7): a write that succeeds reaches it whole, one that fails
in part, and a read that the fixture answers takes bytes from `Q`. Where its later answers are unconstrained, R65 leaves
open what it answers and not what it receives, so writes still reach it; that a read then takes nothing from `Q`, which no
answer shows any more, is the model's choice (DESIGN CHOICE, log entry 27). Of a primitive that is still unanswered no
byte has arrived and none has been taken, which shows after a reset that abandons it; the spec is silent on that (DESIGN
CHOICE, log entry 34). -/
def Env.peerAfter (e : Env) (p : Prim) : Peer :=
  match e.board with
  | .unconstrained => e.peer
  | .reference =>
    match p with
    | .txWrite s =>
      match e.answer p with
      | .ok _ => (e.peer.receive (Config.openFrame e.draws) s).afterExecute s
      | .ioError => e.peer.receiveFailed (Config.sentPrefix e.draws) (Config.storedNew e.draws) (Config.openFrame e.draws) s
      | .silent => e.peer
    | .rxRead n => if e.scripted.isSome || e.peer.lost then e.peer else { e.peer with q := e.peer.q.drop n }
    | .tOpen _ _ _ => e.peer
    | .tClose => e.peer

/-- The environment after a primitive. -/
def Env.after (e : Env) (p : Prim) : Env :=
  if p = .tClose then e
  else { script := e.script.tail, board := e.board, peer := e.peerAfter p, draws := e.draws + 1 }

/-- The events a primitive with this answer leaves at the transport port: none while it has not been answered. -/
def Prim.events (p : Prim) (a : Answer) : List Event :=
  if a = .silent then [] else [{ prim := p, answer := a }]

/-- Issue a primitive (R33): the environment moves on and the answered primitive is recorded. -/
def State.issue (p : Prim) (s : State) : State :=
  { s with env := s.env.after p, trace := s.trace ++ p.events (s.env.answer p) }

/-! ### Ending an operation -/

/-- Take the next command from the command port (R31). -/
def State.takeCommand (s : State) : State := { s with cmds := s.cmds.tail }

/-- End the operation with a `RESULT` and response data: the sequencer returns to `IDLE`, the selectors to `NONE`
(R24, R25), and the response is delivered (R32). -/
def State.finish (result : BitVec 32) (rdata : Bytes) (s : State) : State :=
  { s with
    result := result
    rdata := rdata
    phase := .idle
    xop := .none
    runseq := .none
    responses := s.responses ++ [{ result := result, rdata := rdata }] }

/-- `return v` (R7): `RESULT <- OK` with response data `v`. -/
def State.complete (v : Bytes) (s : State) : State := s.finish resultOk v

/-- `raise E(info)` (60_exceptions.md R207), the one way an operation ends in an error. `STAGE` is 1 in the Execute
exchange of `runProgram` (R28). Nothing but what R207 lists changes; there is no handler and nothing to return to
(R210). -/
def State.raise (e : OpError) (s : State) : State :=
  s.finish (e.word (decide (s.runseq = .exec))) []

/-- Refuse the command (R206): it is dropped and `STATUS.REFUSED` set; no response. -/
def State.refuse (s : State) : State := { s.takeCommand with refused := true }

/-- The fault of R206: `STATUS.FAULT` set, no response; the block takes no further step until reset. -/
def State.setFault (s : State) : State := { s.takeCommand with fault := true }

/-! ### Reset -/

/-- Hardware reset (R240, R241): an exchange in flight is abandoned with no further primitive and no response, an open
transport is released, and every register takes its reset value. The board, the ports' histories and the commands the
Caller still holds are not the block's and stay (log entry 16). So does an `open` whose `TOpen` is unanswered: it was not
taken from the port, and after the reset it is issued again; the spec is silent on that case (DESIGN CHOICE, log entry
30). -/
def State.hwReset (s : State) : State :=
  let s' := if s.conn = .connected then s.issue .tClose else s
  { State.reset with cmds := s'.cmds, responses := s'.responses, trace := s'.trace, env := s'.env }

/-! ### When the block steps -/

/-- The block moves only while `STATUS.FAULT` is 0 (R29). -/
def act (f : State → State) (s : State) : Host.Outcome State Fault Refusal :=
  if s.fault then .fault .quiescent else .next (f s)

/-- A command is accepted only at `IDLE`; while `BUSY` the port holds it and nothing moves (R31, D8, R246). -/
def accept (f : State → State) (s : State) : Host.Outcome State Fault Refusal :=
  act (fun s => if s.busy then s else f s) s

end Sys2Proof.Machine
end

