-- ==== Sys2Proof/Machine/Operands.lean ====
section
/-! DEFINITION. The operand forms: latching the operand registers from the command port (10_state.md R26, R31), and the
wire command of the exchange in flight, read back from them. -/

namespace Sys2Proof.Machine

/-- Latch `ADDR` and `COUNT` of a read (R26, R140). -/
def State.latchRead (addr : Addr) (count : Half) (s : State) : State :=
  { s with addr := addr, count := count }

/-- Latch `ADDR` and `DATA` of a write, with `COUNT <- len(DATA)` (R26, R141). -/
def State.latchWrite (addr : Addr) (data : Bytes) (s : State) : State :=
  { s with addr := addr, data := data, count := BitVec.ofNat 16 data.length }

/-- Latch `START` of a `runProgram` (R26, R161). -/
def State.latchStart (start : Half) (s : State) : State :=
  { s with start := start }

/-- The data of a write fits the 16-bit length field (R142). -/
def fitsOneWrite (data : Bytes) : Bool := decide (data.length ≤ Config.maxXfer)

/-- The first wire command of `runProgram(start)` (R161): the RegisterBlock, written to `REGBLOCK_BASE`. -/
def regblockWrite (start : Half) : Instr := .cmdWriteMem regblockBase (encodeRegblock start)

/-- The wire command of the exchange in flight: `RUNSEQ` and `XOP` say which it is (R25), the operand registers hold
its operands. -/
def State.inFlight (s : State) : Option Instr :=
  match s.runseq with
  | .regs => some (regblockWrite s.start)
  | .exec => some .cmdExec
  | .none =>
    match s.xop with
    | .none => none
    | .sync => some .cmdSync
    | .read => some (.cmdReadMem s.addr s.count)
    | .write => some (.cmdWriteMem s.addr s.data)
    | .exec => some .cmdExec

end Sys2Proof.Machine
end

