-- ==== Sys2Proof/Machine/Exchange.lean ====
section
/-! DEFINITION. The exchange sequencer (41_sync.md R120, R121): one definition per phase, each of them one transport
primitive and its answer. -/

namespace Sys2Proof.Machine

/-- An exchange starts (R121, first row): `XOP` set, `PHASE <- TX_PRE`. -/
def State.startExchange (x : XOp) (s : State) : State := { s with xop := x, phase := .txPre }

/-- The connection gate of every exchange operation (40_connection.md R103): while `DISCONNECTED` it completes at once
with `NOT_CONNECTED` and issues no primitive. -/
def State.whenConnected (f : State → State) (s : State) : State :=
  if s.conn = .connected then f s else s.raise .notConnected

/-- `TX_PRE` (R121): send the preamble. -/
def State.sendPreamble (s : State) : State :=
  match s.env.answer (.txWrite preamble) with
  | .ok _ => { s.issue (.txWrite preamble) with phase := .rxAck }
  | .ioError => (s.issue (.txWrite preamble)).raise (.transport .writeFailed)
  | .silent => s.issue (.txWrite preamble)

/-- `RX_ACK` (R121, R123): read one byte and require `ACK_BYTE`. -/
def State.readAck (isSync : Bool) (s : State) : State :=
  match s.env.answer (.rxRead 1) with
  | .ok [] => (s.issue (.rxRead 1)).raise (.protocol isSync .shortAck)
  | .ok (b :: _) =>
    if b = ackByte then { s.issue (.rxRead 1) with phase := .txBody }
    else (s.issue (.rxRead 1)).raise (.protocol isSync (.badAck b))
  | .ioError => (s.issue (.rxRead 1)).raise (.transport .readFailed)
  | .silent => s.issue (.rxRead 1)

/-- `TX_BODY` (R121): send the body. With no response to read, the exchange has succeeded; `done` ends it. -/
def State.sendBody (body : Bytes) (nresp : Nat) (done : Bytes → State → State) (s : State) : State :=
  match s.env.answer (.txWrite body) with
  | .ok _ =>
    if nresp = 0 then done [] (s.issue (.txWrite body)) else { s.issue (.txWrite body) with phase := .rxResp }
  | .ioError => (s.issue (.txWrite body)).raise (.transport .writeFailed)
  | .silent => s.issue (.txWrite body)

/-- `RX_RESP` (R121, R122): read the response; fewer bytes than asked for fail the exchange. -/
def State.readResponse (isSync : Bool) (nresp : Nat) (done : Bytes → State → State) (s : State) : State :=
  match s.env.answer (.rxRead nresp) with
  | .ok d =>
    if d.length < nresp then (s.issue (.rxRead nresp)).raise (.protocol isSync (.shortResponse d.length))
    else done d (s.issue (.rxRead nresp))
  | .ioError => (s.issue (.rxRead nresp)).raise (.transport .readFailed)
  | .silent => s.issue (.rxRead nresp)

/-- One step of the exchange that carries the wire command `i` (R120, R121). At `IDLE` the exchange starts (`start`,
behind the gate of R103; log entry 19); otherwise the primitive of `PHASE` is issued. `done` ends an exchange whose
response is complete. -/
def State.exchange (i : Instr) (isSync : Bool) (start : State → State) (done : Bytes → State → State) (s : State) :
    State :=
  match s.phase with
  | .idle => s.whenConnected start
  | .txPre => s.sendPreamble
  | .rxAck => s.readAck isSync
  | .txBody => s.sendBody ((encodeBody i).getD []) (responseLength i) done
  | .rxResp => s.readResponse isSync (responseLength i) done

end Sys2Proof.Machine
end

