-- ==== Sys2Proof/Machine/Connection.lean ====
section
/-! DEFINITION. `open` and `close` (40_connection.md R100-R105). -/

namespace Sys2Proof.Machine

/-- `open(port)` while `DISCONNECTED` (R101). Until the transport answers, the command stays at the port (log entry
23). -/
def State.openPort (port : PortId) (s : State) : State :=
  match s.env.answer (.tOpen port Config.baud Config.flow) with
  | .ok _ =>
    { s.takeCommand.issue (.tOpen port Config.baud Config.flow) with
      portId := port, thandle := some { port := port }, conn := .connected }.complete []
  | .ioError => (s.takeCommand.issue (.tOpen port Config.baud Config.flow)).raise (.transport .openFailed)
  | .silent => s.issue (.tOpen port Config.baud Config.flow)

/-- `HOST_OPEN` (R101); refused while `CONNECTED` (R104). -/
def execHostOpen (port : PortId) (s : State) : Host.Outcome State Fault Refusal :=
  accept (fun s => if s.conn = .connected then s.refuse else s.openPort port) s

/-- `close()` while `CONNECTED` (R102): it sends nothing and cannot fail (D34). -/
def State.closePort (s : State) : State :=
  { s.takeCommand.issue .tClose with thandle := none, conn := .disconnected }.complete []

/-- `HOST_CLOSE` (R102); while `DISCONNECTED` it is the fault of R105. -/
def execHostClose (s : State) : Host.Outcome State Fault Refusal :=
  accept (fun s => if s.conn = .connected then s.closePort else s.setFault) s

end Sys2Proof.Machine
end

