-- ==== Sys2Proof/Machine/Execute.lean ====
section
/-! DEFINITION. The Execute exchange and `runProgram` (43_execute.md R160-R165). Success says nothing about the board's
CPU (R162). -/

namespace Sys2Proof.Machine

/-- `CMD_EXEC` (R160): one step of the Execute exchange. It is internal: no command-port code reaches it alone. -/
def execCmdExec (s : State) : Host.Outcome State Fault Refusal :=
  act (State.exchange .cmdExec false (State.startExchange .exec) (fun _ s => s.complete [])) s

/-- `HOST_RUN_PROGRAM` (R161): `START` is latched on acceptance (R31) and, behind the gate of R103, `RUNSEQ <- REGS` and
the RegisterBlock write starts. -/
def execHostRunProgram (start : Half) (s : State) : Host.Outcome State Fault Refusal :=
  accept (fun s =>
    (s.takeCommand.latchStart start).whenConnected (fun s => { s with runseq := .regs }.startExchange .write)) s

end Sys2Proof.Machine
end

