-- ==== Sys2Proof/Machine/MemoryOps.lean ====
section
/-! DEFINITION. `readMemory` and `writeMemory` with their wire commands (42_memory_ops.md R140-R144). No address is
added to, compared or wrapped (R143). -/

namespace Sys2Proof.Machine

/-- `CMD_READ_MEM` (R140): one step of the read exchange; its response bytes are returned unchecked. -/
def execCmdReadMem (addr : Addr) (count : Half) (s : State) : Host.Outcome State Fault Refusal :=
  act (State.exchange (.cmdReadMem addr count) false (fun s => (s.latchRead addr count).startExchange .read)
    State.complete) s

/-- `HOST_READ_MEMORY` (R140): the operands are latched on acceptance (R31; log entry 25) and, behind the gate of R103,
the read exchange starts. -/
def execHostReadMemory (addr : Addr) (count : Half) (s : State) : Host.Outcome State Fault Refusal :=
  accept (fun s => (s.takeCommand.latchRead addr count).whenConnected (State.startExchange .read)) s

/-- What follows a write exchange that has succeeded: inside a `runProgram` its second exchange starts (R121, R161),
otherwise the operation is complete. -/
def State.afterWrite (s : State) : State :=
  match s.runseq with
  | .regs => { s with runseq := .exec }.startExchange .exec
  | .exec => s.complete []
  | .none => s.complete []

/-- `CMD_WRITE_MEM` (R141, and R161 for the RegisterBlock): one step of the write exchange. -/
def execCmdWriteMem (addr : Addr) (data : Bytes) (s : State) : Host.Outcome State Fault Refusal :=
  act (State.exchange (.cmdWriteMem addr data) false (fun s => (s.latchWrite addr data).startExchange .write)
    (fun _ s => s.afterWrite)) s

/-- `HOST_WRITE_MEMORY` (R141): data over 65535 bytes are refused before anything else is checked (R142, R208); else
the operands are latched (R31) and, behind the gate of R103, the write exchange starts. -/
def execHostWriteMemory (addr : Addr) (data : Bytes) (s : State) : Host.Outcome State Fault Refusal :=
  accept (fun s =>
    if fitsOneWrite data then (s.takeCommand.latchWrite addr data).whenConnected (State.startExchange .write)
    else s.refuse) s

end Sys2Proof.Machine
end

