-- ==== Sys2Proof/Machine/Reserved.lean ====
section
/-! DEFINITION. The reserved command-port codes (60_exceptions.md R206), which the block refuses by setting
`STATUS.REFUSED`, and the undefined wire opcodes (30_encoding.md R75), to which "a model gives ... no meaning". -/

namespace Sys2Proof.Machine

/-- `HOST_RESERVED_6` (R206, I19). -/
def execHostReserved6 (s : State) : Host.Outcome State Fault Refusal := accept State.refuse s

/-- `HOST_RESERVED_7` (R206, I19). -/
def execHostReserved7 (s : State) : Host.Outcome State Fault Refusal := accept State.refuse s

/-- No meaning for the opcode (R75, D16): the block never emits it. -/
def refuseOpcode (op : Byte) : Host.Outcome State Fault Refusal := .refused (.undefinedOpcode op)

/-- `RESERVED_01` (R75, I4). -/
def execReserved01 (_s : State) : Host.Outcome State Fault Refusal := refuseOpcode 0x01

/-- `UNDEFINED_04` (R75, I5). -/
def execUndefined04 (_s : State) : Host.Outcome State Fault Refusal := refuseOpcode 0x04

/-- `UNDEFINED_06_07` (R75, I6). -/
def execUndefined0607 (low : BitVec 1) (_s : State) : Host.Outcome State Fault Refusal :=
  refuseOpcode ((0x03 : BitVec 7) ++ low)

/-- `UNDEFINED_08_0F` (R75, I6). -/
def execUndefined080F (low : BitVec 3) (_s : State) : Host.Outcome State Fault Refusal :=
  refuseOpcode ((0x01 : BitVec 5) ++ low)

/-- `UNDEFINED_10_1F` (R75, I6). -/
def execUndefined101F (low : BitVec 4) (_s : State) : Host.Outcome State Fault Refusal :=
  refuseOpcode ((0x01 : BitVec 4) ++ low)

/-- `UNDEFINED_20_3F` (R75, I6). -/
def execUndefined203F (low : BitVec 5) (_s : State) : Host.Outcome State Fault Refusal :=
  refuseOpcode ((0x01 : BitVec 3) ++ low)

/-- `UNDEFINED_40_7F` (R75, I6). -/
def execUndefined407F (low : BitVec 6) (_s : State) : Host.Outcome State Fault Refusal :=
  refuseOpcode ((0x01 : BitVec 2) ++ low)

/-- `UNDEFINED_80_FF` (R75, I6). -/
def execUndefined80FF (low : BitVec 7) (_s : State) : Host.Outcome State Fault Refusal :=
  refuseOpcode ((0x01 : BitVec 1) ++ low)

end Sys2Proof.Machine
end

