-- ==== Sys2Proof/Machine/Sync.lean ====
section
/-! DEFINITION. `synchronize` and its wire command (41_sync.md R124-R127). -/

namespace Sys2Proof.Machine

/-- The status check of a Sync (R124): the byte must be `SYNC_OK`. -/
def State.checkSyncStatus (d : Bytes) (s : State) : State :=
  match d with
  | [] => s.complete []
  | b :: _ => if b = syncOk then s.complete [] else s.raise (.protocol true (.badStatus b))

/-- `CMD_SYNC` (R124): one step of the Sync exchange. -/
def execCmdSync (s : State) : Host.Outcome State Fault Refusal :=
  act (State.exchange .cmdSync true (State.startExchange .sync) State.checkSyncStatus) s

/-- `HOST_SYNCHRONIZE` (R124): behind the gate of R103, the Sync exchange starts. -/
def execHostSynchronize (s : State) : Host.Outcome State Fault Refusal :=
  accept (fun s => s.takeCommand.whenConnected (State.startExchange .sync)) s

end Sys2Proof.Machine
end

