-- ==== Sys2Proof/Machine/Dispatch.lean ====
section
/-! DEFINITION. One arm per instruction. -/

namespace Sys2Proof.Machine

-- The meaning of each instruction.
def exec (i : Instr) (s : State) : Host.Outcome State Fault Refusal :=
  match i with
  | .cmdSync => Sys2Proof.Machine.execCmdSync s
  | .reserved01 => Sys2Proof.Machine.execReserved01 s
  | .cmdWriteMem addr data => Sys2Proof.Machine.execCmdWriteMem addr data s
  | .cmdReadMem addr count => Sys2Proof.Machine.execCmdReadMem addr count s
  | .undefined04 => Sys2Proof.Machine.execUndefined04 s
  | .cmdExec => Sys2Proof.Machine.execCmdExec s
  | .undefined0607 low => Sys2Proof.Machine.execUndefined0607 low s
  | .undefined080F low => Sys2Proof.Machine.execUndefined080F low s
  | .undefined101F low => Sys2Proof.Machine.execUndefined101F low s
  | .undefined203F low => Sys2Proof.Machine.execUndefined203F low s
  | .undefined407F low => Sys2Proof.Machine.execUndefined407F low s
  | .undefined80FF low => Sys2Proof.Machine.execUndefined80FF low s
  | .hostOpen port => Sys2Proof.Machine.execHostOpen port s
  | .hostClose => Sys2Proof.Machine.execHostClose s
  | .hostSynchronize => Sys2Proof.Machine.execHostSynchronize s
  | .hostReadMemory addr count => Sys2Proof.Machine.execHostReadMemory addr count s
  | .hostWriteMemory addr data => Sys2Proof.Machine.execHostWriteMemory addr data s
  | .hostRunProgram start => Sys2Proof.Machine.execHostRunProgram start s
  | .hostReserved6 => Sys2Proof.Machine.execHostReserved6 s
  | .hostReserved7 => Sys2Proof.Machine.execHostReserved7 s

end Sys2Proof.Machine
end

