-- ==== Sys2Proof/Machine/Fetch.lean ====
section
/-! DEFINITION. What the machine does next: which instruction a step runs, and where a table word is put so that the
next step runs it. -/

namespace Sys2Proof.Machine

/-- What a step does. -/
inductive Next where
  /-- The reset input is asserted (R241). -/
  | reset
  /-- The block does not step: faulted (R29), or in a position no run reaches (log entry 18). -/
  | stop (r : Fault)
  /-- At `IDLE` with no command at the port: the block waits (R240). -/
  | wait
  /-- Run this instruction: the command at the port (R31), or the wire command of the exchange in flight (R121). -/
  | run (i : Instr)
  deriving DecidableEq, Repr

/-- Which of them it is. Reset comes first, and is the only thing that moves a faulted block (R29, R241). -/
def State.fetch (s : State) : Next :=
  if s.resetReq then .reset
  else if s.fault then .stop .quiescent
  else if s.busy then
    match s.inFlight with
    | some i => .run i
    | none => .stop .noExchange
  else
    match s.cmds with
    | [] => .wait
    | c :: _ => .run (decodeCommand c)

/-- The block at `IDLE`, able to accept a command, with `c` the next one at the port. -/
def State.withCommand (c : Command) (s : State) : State :=
  { s with
    cmds := c :: s.cmds, phase := .idle, xop := .none, runseq := .none, fault := false, resetReq := false }

/-- The block connected and at `TX_PRE` of an exchange. -/
def State.withExchange (x : XOp) (r : RunSeq) (s : State) : State :=
  { s with
    conn := .connected, thandle := some { port := s.portId }
    phase := .txPre, xop := x, runseq := r, fault := false, resetReq := false }

/-- The state whose next step runs `i`: a command-port operation stands at the command port, a wire command is the
exchange in flight. An undefined opcode has no place in the block, which fetches none and emits none (R75); the state
is then left as it is (log entries 9 and 10). -/
def State.place (i : Instr) (s : State) : State :=
  match i with
  | .cmdSync => s.withExchange .sync .none
  | .cmdReadMem a c => (s.latchRead a c).withExchange .read .none
  | .cmdWriteMem a d => (s.latchWrite a d).withExchange .write .none
  | .cmdExec => s.withExchange .exec .exec
  | .reserved01 | .undefined04 | .undefined0607 _ | .undefined080F _ | .undefined101F _ | .undefined203F _
  | .undefined407F _ | .undefined80FF _ => s
  | .hostOpen p => s.withCommand { bareCommand 0 with port := p }
  | .hostClose => s.withCommand (bareCommand 1)
  | .hostSynchronize => s.withCommand (bareCommand 2)
  | .hostReadMemory a c => s.withCommand { bareCommand 3 with addr := a, count := c }
  | .hostWriteMemory a d => s.withCommand { bareCommand 4 with addr := a, data := d }
  | .hostRunProgram v => s.withCommand { bareCommand 5 with start := v }
  | .hostReserved6 => s.withCommand (bareCommand 6)
  | .hostReserved7 => s.withCommand (bareCommand 7)

/-- Place the instruction whose bits are `w` (log entry 10). -/
def State.placeWord (s : State) (nbits w : Nat) : State :=
  match decodeTableWord nbits w with
  | some i => s.place i
  | none => s

end Sys2Proof.Machine
end

