-- ==== Sys2Proof/Machine/Step.lean ====
section
/-! DEFINITION. One step: the acceptance of a command or one transport primitive of the exchange in flight (00_scope.md
R7, 41_sync.md R121), or the reset input (R241). A block with nothing to do waits (R240). -/

namespace Sys2Proof.Machine

/-- One step of the machine. -/
def step (s : State) : Host.Outcome State Fault Refusal :=
  match s.fetch with
  | .reset => .next s.hwReset
  | .stop r => .fault r
  | .wait => .next s
  | .run i => exec i s

/-- `s` with the instruction whose bits are `w` placed where the next step finds it (log entry 10). -/
def State.withFetchWord (s : State) (nbits w : Nat) : State := s.placeWord nbits w

end Sys2Proof.Machine
end

