-- ==== Sys2Proof/Machine/Caller.lean ====
section
/-! DEFINITION. The Caller's side (30_encoding.md R91, 70_reset_and_hazards.md R242 and R250, 60_exceptions.md R205): the
macros, chunking, the synchronization policy and the verify check, and what the Caller issues next after each response,
errors included. None of this is the block's; it says which commands the Caller puts at the command port. -/

namespace Sys2Proof.Machine

/-- `open(port)` (R89). -/
def cmdOpen (port : PortId) : Command := { bareCommand 0 with port := port }

/-- `close()` (R89). -/
def cmdClose : Command := bareCommand 1

/-- `synchronize()` (R89). -/
def cmdSynchronize : Command := bareCommand 2

/-- `readMemory(address, count)` (R89). -/
def cmdReadMemory (addr : Addr) (count : Half) : Command := { bareCommand 3 with addr := addr, count := count }

/-- `writeMemory(address, data)` (R89). -/
def cmdWriteMemory (addr : Addr) (data : Bytes) : Command := { bareCommand 4 with addr := addr, data := data }

/-- `runProgram(startAddress)` (R89). -/
def cmdRunProgram (start : Half) : Command := { bareCommand 5 with start := start }

/-- Split an image into chunks of at most 65535 bytes, each with its own address `a + offset` (R251, R143); `fuel`
bounds the number of chunks. The spec fixes neither the sizes nor the order (N21): every chunk but the last is as large as
a write can be, in ascending order, and an empty image has no chunk at all (DESIGN CHOICE, log entry 28). An address past
0xFFFFFF is the Caller's error (D33) and comes out modulo 2^24 (DESIGN CHOICE, log entry 29). -/
def chunks : Nat → Addr → Bytes → List (Addr × Bytes)
  | 0, _, _ => []
  | fuel + 1, a, image =>
    match image with
    | [] => []
    | _ =>
      (a, image.take Config.maxXfer) ::
        chunks fuel (a + BitVec.ofNat 24 Config.maxXfer) (image.drop Config.maxXfer)

/-! ### The macros -/

/-- The caller macros (R91). `SetRegistersAndExecute` is the block's own `runProgram`. A `READ_IMAGE` of more than 65535
bytes is not in the source (N21). -/
inductive Macro where
  | boot
  | readImage (a : Addr) (size : Half)
  | program (a : Addr) (image : Bytes) (verify : Bool)
  | run (start : Half)
  deriving DecidableEq, Repr

/-- One operation of a macro after its boot; `expect` is the chunk that a readback must return (R205). -/
structure MacroOp where
  cmd    : Command
  expect : Option Bytes
  deriving DecidableEq, Repr

/-- What a macro issues between its boot and its `close` (R91). -/
def Macro.tasks : Macro → List MacroOp
  | .boot => []
  | .readImage a size => [{ cmd := cmdReadMemory a size, expect := none }]
  | .program a image verify =>
    let parts := chunks image.length a image
    parts.map (fun c => { cmd := cmdWriteMemory c.1 c.2, expect := none }) ++
      (if verify then
        parts.map (fun c => { cmd := cmdReadMemory c.1 (BitVec.ofNat 16 c.2.length), expect := some c.2 })
       else [])
  | .run start => [{ cmd := cmdRunProgram start, expect := none }]

/-- Whether the macro itself ends in `close()` where nothing fails (R91); `BOOT` leaves that to the macro it opens. -/
def Macro.closes : Macro → Bool
  | .boot => false
  | .readImage _ _ => true
  | .program _ _ _ => true
  | .run _ => true

/-- `BOOT(port)` (R91), where no Sync fails. -/
def macroBoot (port : PortId) : List Command := cmdOpen port :: List.replicate Config.syncCount cmdSynchronize

/-- The whole expansion of a macro (R91) where nothing fails and `SYNC_POLICY` is `ALL_THREE`. -/
def Macro.commands (port : PortId) (m : Macro) : List Command :=
  macroBoot port ++ m.tasks.map MacroOp.cmd ++ (if m.closes then [cmdClose] else [])

/-- `READ_IMAGE(a, size)` (R91), where nothing fails. -/
def macroReadImage (port : PortId) (a : Addr) (size : Half) : List Command := (Macro.readImage a size).commands port

/-- `PROGRAM(a, image, verify)` (R91), where nothing fails. -/
def macroProgram (port : PortId) (a : Addr) (image : Bytes) (verify : Bool) : List Command :=
  (Macro.program a image verify).commands port

/-- `RUN(start)` (R91), where nothing fails. -/
def macroRun (port : PortId) (start : Half) : List Command := (Macro.run start).commands port

/-- `VerificationMismatch` (R205): the readback succeeded and differs from the chunk written. That the comparison is made
chunk by chunk is DESIGN CHOICE (N22, log entry 32). -/
def verificationMismatch (chunk : Bytes) (r : Response) : Bool :=
  decide (r.result = resultOk) && decide (r.rdata ≠ chunk)

/-- What the Caller does next about synchronization. -/
inductive SyncVerdict where
  | issueAgain
  | ready
  | giveUp
  deriving DecidableEq, Repr

/-- The policy's verdict on the `RESULT`s of the Syncs issued so far (D22). -/
def syncVerdict (policy : SyncPolicy) (results : List (BitVec 32)) : SyncVerdict :=
  match policy with
  | .allThree =>
    if results.any (fun r => decide (r ≠ resultOk)) then .giveUp
    else if Config.syncCount ≤ results.length then .ready
    else .issueAgain
  | .retry attempts =>
    if results.any (fun r => decide (r = resultOk)) then .ready
    else if attempts ≤ results.length then .giveUp
    else .issueAgain

/-! ### What the Caller issues after each response -/

/-- Why a macro ends in an error: an operation's `RESULT`, the policy's giving up, or a readback that differs (R205). -/
inductive CallerError where
  | openFailed (result : BitVec 32)
  | notSynchronized
  | operationFailed (result : BitVec 32)
  | verificationMismatch
  deriving DecidableEq, Repr

/-- The Caller's next move. -/
inductive Move where
  | issue (c : Command)
  | finished (e : Option CallerError)
  deriving DecidableEq, Repr

/-- Every exit path after a successful `open` ends so (R91, R250): `close()`, once, and then the macro is over. -/
def Caller.closing (e : Option CallerError) : List Response → Move
  | [] => .issue cmdClose
  | _ :: _ => .finished e

/-- The tasks of a macro, one after the other; the first error ends them (R91). `rs` holds the responses not yet used.
That the first readback that differs ends a verification is DESIGN CHOICE (N22, log entry 32). -/
def Caller.working (closes : Bool) : List MacroOp → List Response → Move
  | [], rs => if closes then Caller.closing none rs else .finished none
  | t :: _, [] => .issue t.cmd
  | t :: ts, r :: rs =>
    if r.result ≠ resultOk then Caller.closing (some (.operationFailed r.result)) rs
    else if t.expect.any (fun chunk => verificationMismatch chunk r) then
      Caller.closing (some .verificationMismatch) rs
    else Caller.working closes ts rs

/-- The Syncs of a boot under `SYNC_POLICY` (R242, D22); `seen` holds the `RESULT`s so far. -/
def Caller.syncing (policy : SyncPolicy) (m : Macro) : List (BitVec 32) → List Response → Move
  | seen, [] =>
    match syncVerdict policy seen with
    | .issueAgain => .issue cmdSynchronize
    | .ready => Caller.working m.closes m.tasks []
    | .giveUp => Caller.closing (some .notSynchronized) []
  | seen, r :: rs =>
    match syncVerdict policy seen with
    | .issueAgain => Caller.syncing policy m (seen ++ [r.result]) rs
    | .ready => Caller.working m.closes m.tasks (r :: rs)
    | .giveUp => Caller.closing (some .notSynchronized) (r :: rs)

/-- The Caller's next move in a macro, after the responses it has received in it (R91). An `open` that fails leaves
nothing to close. -/
def Caller.next (policy : SyncPolicy) (port : PortId) (m : Macro) : List Response → Move
  | [] => .issue (cmdOpen port)
  | r :: rs =>
    if r.result = resultOk then Caller.syncing policy m [] rs else .finished (some (.openFailed r.result))

/-- A Caller at work on a macro, on the open parameters `SYNC_POLICY` and the port. `answered` responses were delivered
before it began, and it has issued `issued` commands since. -/
structure CallerRun where
  policy   : SyncPolicy
  port     : PortId
  work     : Macro
  answered : Nat
  issued   : Nat
  deriving DecidableEq, Repr

/-- The Caller puts its next command at the port once the response to the last one has been delivered (R246). Each command
is issued once: only a Sync is ever repeated, and that by the policy (R209, R242). So where a command gets no response
(refused, faulted, or abandoned by a reset) the Caller issues nothing more (DEDUCED, log entry 33). Of a reset between two
commands, with every response delivered, the Caller takes no notice and carries the macro on; the spec is silent there
(DESIGN CHOICE, log entry 37). -/
def Caller.offer (c : CallerRun) (s : State) : CallerRun × State :=
  let received := s.responses.drop c.answered
  if received.length = c.issued ∧ s.cmds = [] then
    match Caller.next c.policy c.port c.work received with
    | .issue cmd => ({ c with issued := c.issued + 1 }, { s with cmds := [cmd] })
    | .finished _ => (c, s)
  else (c, s)

end Sys2Proof.Machine
end

