-- ==== Sys2Proof/Safety.lean ====
section
/-! DEFINITION. The terms claims are stated in: the invariant of the machine, the end of a run (R254), the situations an
operation starts from, and what a step leaves unchanged. -/

namespace Sys2Proof.Safety

open Sys2Proof.Machine

/-! ### The invariant -/

/-- `THANDLE` is held exactly while `CONNECTED` (R23), on the port `TCFG` names (R101). -/
abbrev HandleInv (s : State) : Prop :=
  s.thandle = if s.conn = .connected then some { port := s.portId } else none

/-- An exchange is in flight exactly while `PHASE` is not `IDLE` (R24, R25), and only while `CONNECTED` (R103). -/
abbrev SequencerInv (s : State) : Prop :=
  (s.phase = .idle ↔ s.xop = .none) ∧ (s.phase ≠ .idle → s.conn = .connected)

/-- `RUNSEQ` names the stage of a `runProgram` whose exchange `XOP` names (R25, R161). -/
abbrev RunSeqInv (s : State) : Prop :=
  (s.runseq = .regs → s.xop = .write) ∧ (s.runseq = .exec ↔ s.xop = .exec)

/-- A response is awaited only in an exchange that has one: `RX_RESP` is skipped when its length is 0 (R24, D12). -/
abbrev ResponseInv (s : State) : Prop :=
  s.phase = .rxResp → s.xop = .sync ∨ (s.xop = .read ∧ s.count ≠ 0)

/-- The buffers hold at most 65535 bytes (R26, R27, R51), and for a write `COUNT = len(DATA)` (R26). -/
abbrev BufferInv (s : State) : Prop :=
  s.data.length ≤ Config.maxXfer ∧ s.rdata.length ≤ Config.maxXfer ∧
    (s.xop = .write → s.runseq = .none → s.count.toNat = s.data.length)

/-- A word `RESULT` can hold (R28, R202, R203): a `KIND` of 0 to 4, bits 7:6 zero, a `CAUSE` of that `KIND`, and
`GOT_BYTE` and `GOT_COUNT` only where the cause has them. -/
def resultLegal (r : BitVec 32) : Bool :=
  let cause := resultCause r
  let noByte := decide (resultGotByte r = 0)
  let noCount := decide (resultGotCount r = 0)
  decide (resultReserved r = 0) &&
    (if resultKind r = 0 ∨ resultKind r = 4 then decide (cause = 0) && !resultStage r && noByte && noCount
     else if resultKind r = 1 then
       decide (cause ≠ 3) && (!resultStage r || decide (cause ≠ 0)) && noByte && noCount
     else if resultKind r = 2 then
       (decide (cause = 0) && noCount && decide (resultGotByte r ≠ ackByte)) || (decide (cause = 1) && noByte && noCount)
         || (decide (cause = 3) && noByte && !resultStage r)
     else if resultKind r = 3 then
       !resultStage r &&
         ((decide (cause = 0) && noCount && decide (resultGotByte r ≠ ackByte))
           || (decide (cause = 2) && noCount && decide (resultGotByte r ≠ syncOk))
           || ((decide (cause = 1) || decide (cause = 3)) && noByte && noCount))
     else false)

/-- `RESULT` holds a legal word. -/
abbrev ResultInv (s : State) : Prop := resultLegal s.result = true

/-- A faulted block is disconnected and at `IDLE`: only `close` while `DISCONNECTED` faults (R105, R206). -/
abbrev FaultInv (s : State) : Prop := s.fault = true → s.phase = .idle ∧ s.conn = .disconnected

/-- Target memory is in its canonical form. -/
abbrev MemoryInv (s : State) : Prop := s.env.peer.mem.wf = true

/-- The invariant of the machine. -/
abbrev Inv (s : State) : Prop :=
  HandleInv s ∧ SequencerInv s ∧ RunSeqInv s ∧ ResponseInv s ∧ BufferInv s ∧ ResultInv s ∧ FaultInv s ∧ MemoryInv s

/-! ### Runs -/

/-- Where a run of `issued` commands ends that began with `answered` responses delivered (R254): nothing left at the
port, every command answered, `CONN = DISCONNECTED`, `BUSY = 0`, `FAULT = 0`, `REFUSED = 0`. The spec is silent on a run
that a reset interrupts: one whose command was abandoned, faulted or refused lacks that response and does not count as
ended here, whatever the reset cleared (DESIGN CHOICE, log entry 31). -/
abbrev RunEnded (answered issued : Nat) (s : State) : Prop :=
  s.cmds = [] ∧ s.responses.length = answered + issued ∧ s.conn = .disconnected ∧ s.busy = false ∧ s.fault = false ∧
    s.refused = false

/-! ### Commands without a response -/

/-- The command that comes next is one of those R206 has refused. -/
abbrev RefusedNext (s : State) : Prop :=
  s.fetch = .run .hostReserved6 ∨ s.fetch = .run .hostReserved7 ∨
    (∃ p, s.fetch = .run (.hostOpen p) ∧ s.conn = .connected) ∨
    (∃ a d, s.fetch = .run (.hostWriteMemory a d) ∧ 65535 < d.length)

/-- The command that comes next is the one R206 has fault. -/
abbrev FaultingNext (s : State) : Prop := s.fetch = .run .hostClose ∧ s.conn = .disconnected

/-! ### Situations an operation starts from -/

/-- The block is connected, at `IDLE`, and able to accept the command at the port. -/
abbrev Ready (c : Command) (rest : List Command) (s : State) : Prop :=
  s.conn = .connected ∧ s.phase = .idle ∧ s.runseq = .none ∧ s.fault = false ∧ s.resetReq = false ∧ s.cmds = c :: rest

/-- The next primitives are answered as listed, whatever comes after them. -/
abbrev Scripted (answers : List Answer) (more : List (Option Answer)) (s : State) : Prop :=
  s.env.script = answers.map some ++ more

/-- The reference peer answers, with no scripted answer before it. -/
abbrev AgainstPeer (s : State) : Prop := s.env.board = .reference ∧ s.env.script = [] ∧ s.env.peer.lost = false

/-- The reference peer and the block agree on where the next frame starts, and nothing is queued: no stale byte on
either side (R35). -/
abbrev PeerAtFrameStart (s : State) : Prop :=
  s.env.peer.q = [] ∧ s.env.peer.inbuf = [] ∧ s.env.peer.expectBody = false

/-! ### What changes and what does not -/

/-- The operand registers are unchanged. -/
abbrev KeepsOperands (s t : State) : Prop :=
  t.addr = s.addr ∧ t.count = s.count ∧ t.data = s.data ∧ t.start = s.start

/-- The connection registers are unchanged. -/
abbrev KeepsConnection (s t : State) : Prop :=
  t.conn = s.conn ∧ t.portId = s.portId ∧ t.thandle = s.thandle

/-- The sticky status bits are unchanged. -/
abbrev KeepsSticky (s t : State) : Prop := t.fault = s.fault ∧ t.refused = s.refused

/-- The sequencer registers are unchanged. -/
abbrev KeepsSequencer (s t : State) : Prop := t.phase = s.phase ∧ t.xop = s.xop ∧ t.runseq = s.runseq

/-- The response registers are unchanged and no response is delivered. -/
abbrev KeepsOutcome (s t : State) : Prop :=
  t.result = s.result ∧ t.rdata = s.rdata ∧ t.responses = s.responses

/-- No transport primitive is issued, so no byte is sent or taken. -/
abbrev NoPrimitive (s t : State) : Prop := t.trace = s.trace ∧ t.env = s.env

/-- Every byte of target memory reads as before. -/
abbrev KeepsMemory (s t : State) : Prop := ∀ a, t.env.peer.mem.read a = s.env.peer.mem.read a

/-- An operation ended with this `RESULT` and data, and its one response was delivered (R28, R32). -/
abbrev EndedWith (r : BitVec 32) (d : Bytes) (s t : State) : Prop :=
  t.result = r ∧ t.rdata = d ∧ t.phase = .idle ∧ t.xop = .none ∧ t.runseq = .none ∧
    t.responses = s.responses ++ [{ result := r, rdata := d }]

/-- One primitive was issued and answered, and nothing changed but the transport port's history, what lies behind the
port, and whatever the statement says besides: connection, operands, sticky bits and command port are unchanged. -/
abbrev AfterPrimitive (p : Prim) (a : Answer) (s t : State) : Prop :=
  t.trace = s.trace ++ [{ prim := p, answer := a }] ∧ t.env = s.env.after p ∧
    KeepsConnection s t ∧ KeepsOperands s t ∧ KeepsSticky s t ∧ t.cmds = s.cmds ∧ t.resetReq = s.resetReq

/-- `STAGE` in place (R28): set in the Execute exchange of `runProgram`. -/
abbrev stageBit (s : State) : BitVec 32 := if s.runseq = .exec then 0x20 else 0

/-- The `KIND` of a protocol failure in the exchange of `i` (R121): `SYNC_FAILURE` for a Sync, else `PROTOCOL_ERROR`. -/
abbrev failureKind (i : Instr) : BitVec 32 := if i = .cmdSync then 3 else 2

/-- `GOT_BYTE` in place (R28). -/
abbrev gotByteField (b : Byte) : BitVec 32 := b.setWidth 32 <<< 8

/-- `GOT_COUNT` in place (R28). -/
abbrev gotCountField (n : Nat) : BitVec 32 := BitVec.ofNat 32 n <<< 16

/-- The state with its histories and outcome registers blanked: what no later step may depend on (R34). -/
def blankOutcome (s : State) : State :=
  { s with result := 0, rdata := [], refused := false, responses := [], trace := [] }

/-- An outcome with its next state seen through `f`. -/
def viewNext (f : State → State) : Host.Outcome State Fault Refusal → Host.Outcome State Fault Refusal
  | .next s => .next (f s)
  | .fault r => .fault r
  | .refused r => .refused r

end Sys2Proof.Safety
end

