-- ==== Sys2Proof/Certificates/Slice0/Obligations.lean ====
section
/-! DEFINITION. The statements about the machine, each from the rule of spec/ its docstring names. -/

open Sys2Proof
open Sys2Proof.Machine
open Sys2Proof.Safety

/-! ### Encoding -/

/-- R53: the three address bytes, low byte first, are the address as a 3-byte little-endian integer. -/
def Obligations.AddressBytesAreLittleEndian : Prop :=
  ∀ a : Addr, ∃ b0 b1 b2 : Byte,
    addr24 a = [b0, b1, b2] ∧ b0 = a.extractLsb' 0 8 ∧ b1 = a.extractLsb' 8 8 ∧ b2 = a.extractLsb' 16 8 ∧
      a.toNat = b0.toNat + 256 * b1.toNat + 65536 * b2.toNat

/-- R78: the field decoders are the little-endian sums, and decoding the payload `addr24(a) ++ le16(c)` gives `(a, c)`
back, as does decoding the start of a `WRITE_MEM` payload. -/
def Obligations.FieldDecodingInvertsEncoding : Prop :=
  (∀ b0 b1 : Byte, (dec16 b0 b1).toNat = b0.toNat + 256 * b1.toNat) ∧
  (∀ b0 b1 b2 : Byte, (dec24 b0 b1 b2).toNat = b0.toNat + 256 * b1.toNat + 65536 * b2.toNat) ∧
  (∀ (a : Addr) (c : Half), ∃ b0 b1 b2 c0 c1 : Byte,
    addr24 a ++ le16 c = [b0, b1, b2, c0, c1] ∧ dec24 b0 b1 b2 = a ∧ dec16 c0 c1 = c) ∧
  (∀ (a : Addr) (d : Bytes), d.length ≤ 65535 → ∃ b0 b1 b2 n0 n1 : Byte,
    encodeBody (.cmdWriteMem a d) = some ([0x02, b0, b1, b2, n0, n1] ++ d) ∧
      dec24 b0 b1 b2 = a ∧ (dec16 n0 n1).toNat = d.length)

/-- R84 (with the layout of R82): the sixteen bytes of the RegisterBlock, for every start address. -/
def Obligations.RegisterBlockBytes : Prop :=
  ∀ v : Half, encodeRegblock v =
    [0x00, 0x00, 0x00, 0x00, 0x00, 0x00, v.extractLsb' 0 8, v.extractLsb' 8 8,
     0x00, 0x00, 0xFF, 0x00, 0x00, 0x01, 0x00, 0x00]

/-- Decoding the encoding of a well-formed instruction gives it back, for every row of the opcode table. That the two
kinds of row are two separate encodings is the model's choice (log entry 9), and so is that an undefined row's encoding is
its opcode byte alone (log entry 36). -/
def Obligations.DecodeInvertsEncode : Prop :=
  ∀ i : Instr, i.wf = true → decode (encode i) = .ok i

/-- R85's last sentence, with any bytes after the body: the decoder takes the body and no more. -/
def Obligations.BodyRoundTripWithTail : Prop :=
  ∀ (i : Instr) (body rest : Bytes), i.wf = true → encodeBody i = some body →
    decodeBody (body ++ rest) = .command i body.length

/-- R85: which verdict the body decoder gives, for every byte sequence, and that it takes an encoded body whole. -/
def Obligations.BodyDecoderVerdicts : Prop :=
  ∀ s : Bytes,
    (decodeBody s = .incomplete ↔
      s = [] ∨ (s.head? = some 0x03 ∧ s.length < 6) ∨
      (s.head? = some 0x02 ∧ (s.length < 6 ∨ s.length < 6 + (dec16 (s.getD 4 0) (s.getD 5 0)).toNat))) ∧
    (∀ op : Byte, decodeBody s = .invalid op ↔
      s.head? = some op ∧ op ≠ 0x00 ∧ op ≠ 0x02 ∧ op ≠ 0x03 ∧ op ≠ 0x05) ∧
    (∀ (i : Instr) (k : Nat), decodeBody s = .command i k →
      k ≤ s.length ∧
      ((s.head? = some 0x00 ∧ i = .cmdSync ∧ k = 1) ∨
       (s.head? = some 0x05 ∧ i = .cmdExec ∧ k = 1) ∨
       (s.head? = some 0x03 ∧ k = 6 ∧
          i = .cmdReadMem (dec24 (s.getD 1 0) (s.getD 2 0) (s.getD 3 0)) (dec16 (s.getD 4 0) (s.getD 5 0))) ∨
       (s.head? = some 0x02 ∧ k = 6 + (dec16 (s.getD 4 0) (s.getD 5 0)).toNat ∧
          i = .cmdWriteMem (dec24 (s.getD 1 0) (s.getD 2 0) (s.getD 3 0)) ((s.take k).drop 6)))) ∧
    (∀ i : Instr, i.wf = true → encodeBody i = some s → decodeBody s = .command i s.length)

/-- R88: the four bodies of the encoder, and that the body of the exchange in flight is always one of them. -/
def Obligations.OnlyFourBodies : Prop :=
  (∀ (i : Instr) (body : Bytes), i.wf = true → (encodeBody i = some body ↔
    (i = .cmdSync ∧ body = [0x00]) ∨
    (∃ (a : Addr) (c : Half), i = .cmdReadMem a c ∧ body = [0x03] ++ addr24 a ++ le16 c) ∨
    (∃ (a : Addr) (d : Bytes), i = .cmdWriteMem a d ∧ d.length ≤ 65535 ∧
      body = [0x02] ++ addr24 a ++ le16 (BitVec.ofNat 16 d.length) ++ d) ∨
    (i = .cmdExec ∧ body = [0x05]))) ∧
  (∀ (s : State) (i : Instr), Inv s → s.inFlight = some i → i.wf = true ∧ ∃ body, encodeBody i = some body)

/-- R87: a receiver tells where a body ends, so no body is the beginning of another command's body. -/
def Obligations.BodiesArePrefixFree : Prop :=
  ∀ (i j : Instr) (b c rest : Bytes), i.wf = true → j.wf = true →
    encodeBody i = some b → encodeBody j = some c → b ++ rest = c → i = j ∧ rest = []

/-- R74, R75: every opcode byte selects exactly one wire row of the opcode table, one of the four commands or an undefined
row, for which the block has no body. That an undefined row's encoding is its opcode byte alone is the model's choice (log
entry 36): R74 gives those opcodes no body length, and N4 no payload. -/
def Obligations.EveryOpcodeHasOneRow : Prop :=
  ∀ op : Byte,
    ((op = 0x00 ∨ op = 0x02 ∨ op = 0x03 ∨ op = 0x05) ∧ undefinedRow op = none) ∨
    (op ≠ 0x00 ∧ op ≠ 0x02 ∧ op ≠ 0x03 ∧ op ≠ 0x05 ∧
      ∃ i, undefinedRow op = some i ∧ encode i = .body [op] ∧ encodeBody i = none)

/-- R31: the operation each `CMD_OP` asks for; operands an operation does not use are ignored. -/
def Obligations.CommandPortCodes : Prop :=
  ∀ (p : PortId) (a : Addr) (c : Half) (d : Bytes) (v : Half),
    decodeCommand ⟨0, p, a, c, d, v⟩ = .hostOpen p ∧
    decodeCommand ⟨1, p, a, c, d, v⟩ = .hostClose ∧
    decodeCommand ⟨2, p, a, c, d, v⟩ = .hostSynchronize ∧
    decodeCommand ⟨3, p, a, c, d, v⟩ = .hostReadMemory a c ∧
    decodeCommand ⟨4, p, a, c, d, v⟩ = .hostWriteMemory a d ∧
    decodeCommand ⟨5, p, a, c, d, v⟩ = .hostRunProgram v ∧
    decodeCommand ⟨6, p, a, c, d, v⟩ = .hostReserved6 ∧
    decodeCommand ⟨7, p, a, c, d, v⟩ = .hostReserved7

/-- Words of 95_test_vectors.md (E12, E13, E16, E19, E24, E26) decode to what they stand for. -/
def Obligations.SampleWordsDecode : Prop :=
  decodeBody [0x05] = .command .cmdExec 1 ∧
  decodeBody [0x03, 0x56, 0x34, 0x12, 0x02, 0x01] = .command (.cmdReadMem 0x123456 0x0102) 6 ∧
  decodeBody [0x02, 0xEF, 0xCD, 0xAB, 0x02, 0x00, 0xAA, 0xBB] = .command (.cmdWriteMem 0xABCDEF [0xAA, 0xBB]) 8 ∧
  decodeBody [] = .incomplete ∧
  decodeBody [0x02, 0x00, 0x10, 0x00, 0x03, 0x00, 0x01, 0x02] = .incomplete ∧
  decodeBody [0xFF] = .invalid 0xFF

/-! ### Registers and reset -/

/-- R240: every reset value the spec gives. -/
def Obligations.ResetValues : Prop :=
  State.reset.conn = .disconnected ∧ State.reset.tcfg.baud = 57600 ∧ State.reset.tcfg.flow = .rtsCts ∧
  State.reset.thandle = none ∧ State.reset.phase = .idle ∧ State.reset.xop = .none ∧ State.reset.runseq = .none ∧
  State.reset.rdata = [] ∧ State.reset.result = 0x00000000 ∧ State.reset.status = 0x00 ∧
  step State.reset = .next State.reset

/-- The invariant holds at reset. -/
def Obligations.ResetMeetsInvariant : Prop := Inv State.reset

/-- R241: a reset, in any state at all, abandons the exchange with no further primitive and no response, and releases
an open transport; the board keeps what it held and a fault is cleared. That the reset input stands in the state, and
that commands still at the port stay there, is the model's choice (log entry 16). -/
def Obligations.ResetFromAnyState : Prop :=
  ∀ s : State, s.resetReq = true → ∃ t, step s = .next t ∧
    t.conn = .disconnected ∧ t.thandle = none ∧ t.phase = .idle ∧ t.xop = .none ∧ t.runseq = .none ∧
    t.rdata = [] ∧ t.result = 0 ∧ t.status = 0 ∧ t.resetReq = false ∧
    t.responses = s.responses ∧ t.cmds = s.cmds ∧ t.env = s.env ∧
    (s.conn = .connected → t.trace = s.trace ++ [⟨.tClose, .ok []⟩]) ∧
    (s.conn = .disconnected → t.trace = s.trace)

/-- R28: the numeric value of `RESULT`, and each field read back. -/
def Obligations.ResultWordLayout : Prop :=
  ∀ (kind : BitVec 3) (cause : BitVec 2) (stage : Bool) (b : Byte) (n : Half),
    (resultWord kind cause stage b n).toNat =
      kind.toNat + 8 * cause.toNat + 32 * stage.toNat + 256 * b.toNat + 65536 * n.toNat ∧
    resultKind (resultWord kind cause stage b n) = kind ∧
    resultCause (resultWord kind cause stage b n) = cause ∧
    resultStage (resultWord kind cause stage b n) = stage ∧
    resultReserved (resultWord kind cause stage b n) = 0 ∧
    resultGotByte (resultWord kind cause stage b n) = b ∧
    resultGotCount (resultWord kind cause stage b n) = n

/-- R29: the bits of `STATUS`; only reset clears `FAULT` and `REFUSED`; what sets them; and a faulted block takes no
step until reset. -/
def Obligations.StatusRegister : Prop :=
  (∀ s : State,
    s.status.getLsbD 0 = decide (s.conn = .connected) ∧ s.status.getLsbD 1 = decide (s.phase ≠ .idle) ∧
    s.status.getLsbD 2 = s.fault ∧ s.status.getLsbD 3 = s.refused ∧ s.status.extractLsb' 4 4 = 0) ∧
  State.reset.status = 0 ∧
  (∀ s : State, s.fault = true → s.resetReq = false → step s = .fault .quiescent) ∧
  (∀ s t : State, s.resetReq = false → step s = .next t →
    (s.refused = true → t.refused = true) ∧
    (t.fault ≠ s.fault → t.fault = true ∧ s.fetch = .run .hostClose ∧ s.conn = .disconnected) ∧
    (t.refused ≠ s.refused → t.refused = true ∧
      (s.fetch = .run .hostReserved6 ∨ s.fetch = .run .hostReserved7 ∨
       (∃ p, s.fetch = .run (.hostOpen p) ∧ s.conn = .connected) ∨
       (∃ a d, s.fetch = .run (.hostWriteMemory a d) ∧ 65535 < d.length))))

/-- R22: `BAUD` and `FLOW` read their hardwired values in every state, and only `open` writes `PORT_ID`, from its
operand. -/
def Obligations.TransportConfiguration : Prop :=
  (∀ s : State, s.tcfg.portId = s.portId ∧ s.tcfg.baud = 57600 ∧ s.tcfg.flow = .rtsCts) ∧
  (∀ s t : State, s.resetReq = false → step s = .next t → t.portId ≠ s.portId →
    s.fetch = .run (.hostOpen t.portId))

/-! ### The step -/

/-- A step runs the instruction that comes next: the decoded command at the port, or the wire command of the exchange
in flight; a block at `IDLE` with no command waits. -/
def Obligations.StepRunsNextInstruction : Prop :=
  ∀ s : State, s.resetReq = false → s.fault = false →
    (∀ (c : Command) (rest : List Command), s.phase = .idle → s.cmds = c :: rest → step s = exec (decodeCommand c) s) ∧
    (s.phase = .idle → s.cmds = [] → step s = .next s) ∧
    (∀ i : Instr, s.phase ≠ .idle → s.inFlight = some i → step s = exec i s)

/-- Every step keeps the invariant (R21, R23, R24, R25, R26, R27, R28, and the canonical form of memory). -/
def Obligations.StepKeepsInvariant : Prop :=
  ∀ s t : State, Inv s → step s = .next t → Inv t

/-- The machine stops only where the spec says so: in a state that meets the invariant a step answers a next state,
unless `STATUS.FAULT` is 1 and no reset is asserted. No run meets a refusal. How the model stops is its own choice (log
entries 7 and 18). -/
def Obligations.OnlyFaultedBlockStops : Prop :=
  (∀ s : State, Inv s →
    (∃ t, step s = .next t) ∨ (s.fault = true ∧ s.resetReq = false ∧ step s = .fault .quiescent)) ∧
  (∀ (s : State) (r : Refusal), step s ≠ .refused r)

/-- R100: `CONN` moves only by a successful `open` while `DISCONNECTED` and by a `close` while `CONNECTED`. -/
def Obligations.ConnectionMovesOnlyByOpenAndClose : Prop :=
  ∀ s t : State, s.resetReq = false → step s = .next t → t.conn ≠ s.conn →
    (∃ p x, s.fetch = .run (.hostOpen p) ∧ s.conn = .disconnected ∧ t.conn = .connected ∧ t.result = 0 ∧
      s.env.answer (.tOpen p 57600 .rtsCts) = .ok x) ∨
    (s.fetch = .run .hostClose ∧ s.conn = .connected ∧ t.conn = .disconnected ∧ t.result = 0)

/-- R33: a step issues at most one primitive, and only the one the sequencer's position gives. -/
def Obligations.OnePrimitiveInSequence : Prop :=
  ∀ s t : State, s.resetReq = false → step s = .next t →
    t.trace = s.trace ∨ ∃ p a, t.trace = s.trace ++ [⟨p, a⟩] ∧
      ((s.phase = .idle ∧ ((∃ port, p = .tOpen port 57600 .rtsCts) ∨ p = .tClose)) ∨
       (s.phase = .txPre ∧ p = .txWrite [0x55, 0xAA]) ∨
       (s.phase = .rxAck ∧ p = .rxRead 1) ∨
       (s.phase = .txBody ∧ ∃ i body, s.inFlight = some i ∧ encodeBody i = some body ∧ p = .txWrite body) ∨
       (s.phase = .rxResp ∧ ∃ i, s.inFlight = some i ∧ p = .rxRead (responseLength i)))

/-- R32 (the cases of R206 named by what comes next): a step at `IDLE` that takes a command refuses or faults exactly where
R206 has it so, with no response; or else starts an exchange, or ends the operation with exactly one response. It takes
none while there is none, or while an `open` is unanswered; that such an `open` stays at the port is the model's choice
(log entry 23). A step of an exchange delivers exactly one response when it returns to `IDLE` and none before. `RESULT` and
`RDATA` change only with a response, which carries them. -/
def Obligations.OneResponsePerOperation : Prop :=
  ∀ s t : State, s.resetReq = false → step s = .next t →
    (s.phase = .idle →
      (t.phase = .idle ∧ t.cmds = s.cmds ∧ KeepsOutcome s t ∧ KeepsSticky s t ∧
        (s.cmds = [] ∨ ∃ port, s.fetch = .run (.hostOpen port) ∧ s.conn = .disconnected ∧
          s.env.answer (.tOpen port 57600 .rtsCts) = .silent)) ∨
      (s.cmds ≠ [] ∧ t.cmds = s.cmds.tail ∧ KeepsOutcome s t ∧ NoPrimitive s t ∧ t.phase = .idle ∧
        ((RefusedNext s ∧ t.refused = true) ∨ (FaultingNext s ∧ t.fault = true))) ∨
      (s.cmds ≠ [] ∧ t.cmds = s.cmds.tail ∧ ¬ RefusedNext s ∧ ¬ FaultingNext s ∧ KeepsSticky s t ∧
        ((t.phase = .txPre ∧ KeepsOutcome s t) ∨
         (t.phase = .idle ∧ t.responses = s.responses ++ [⟨t.result, t.rdata⟩])))) ∧
    (s.phase ≠ .idle → t.cmds = s.cmds ∧
      ((t.phase ≠ .idle ∧ KeepsOutcome s t) ∨
       (t.phase = .idle ∧ t.responses = s.responses ++ [⟨t.result, t.rdata⟩])))

/-- R24, R121: the sequencer advances only as the table says, and skips nothing but `RX_RESP`. -/
def Obligations.PhaseFollowsTable : Prop :=
  ∀ s t : State, Inv s → s.resetReq = false → step s = .next t → t.phase ≠ s.phase →
    (s.phase = .idle ∧ t.phase = .txPre ∧ s.conn = .connected) ∨
    (s.phase = .txPre ∧ t.phase = .rxAck) ∨
    (s.phase = .rxAck ∧ t.phase = .txBody ∧ s.env.answer (.rxRead 1) = .ok [0xCC]) ∨
    (s.phase = .txBody ∧ t.phase = .rxResp ∧ ∃ i, s.inFlight = some i ∧ responseLength i ≠ 0) ∨
    (s.phase = .txBody ∧ t.phase = .txPre ∧ s.runseq = .regs ∧ t.runseq = .exec) ∨
    (s.phase ≠ .idle ∧ t.phase = .idle)

/-- R207: a step that ends an operation in an error writes `RESULT` and empties `RDATA`, returns the sequencer to
`IDLE` and the selectors to `NONE`, delivers the response, and changes nothing else but what the primitive did; in
particular `CONN` stays. -/
def Obligations.ErrorEndsOperation : Prop :=
  ∀ (s t : State) (r : Response), Inv s → s.resetReq = false → step s = .next t →
    t.responses = s.responses ++ [r] → r.result ≠ 0 →
    EndedWith r.result [] s t ∧ resultKind r.result ≠ 0 ∧ KeepsConnection s t ∧ KeepsSticky s t ∧
      (s.phase ≠ .idle → KeepsOperands s t ∧ t.cmds = s.cmds)

/-- R34 with R20: no step depends on the last outcome, on `RDATA`, on `STATUS.REFUSED`, or on the ports' histories. A state
and the same state with these blanked take the same step: the same fault, or next states that agree on every other
register and on the environment, and that have each the same new response and the same new event added. A new outcome
is the same in both, and one that the step does not write stays as it was. That the histories stand in the state is the
model's choice (log entry 6). -/
def Obligations.OutcomeIsNotReadBack : Prop :=
  ∀ s : State,
    viewNext blankOutcome (step s) = viewNext blankOutcome (step (blankOutcome s)) ∧
    (∀ t t' : State, step s = .next t → step (blankOutcome s) = .next t' →
      t.trace = s.trace ++ t'.trace ∧ t.responses = s.responses ++ t'.responses ∧
      (if s.resetReq = true ∨ t'.responses ≠ [] then t.result = t'.result ∧ t.rdata = t'.rdata
       else t.result = s.result ∧ t.rdata = s.rdata) ∧
      (if s.resetReq = true then t.refused = t'.refused else t.refused = (s.refused || t'.refused)))

/-- R121: once its primitives are answered, every exchange reaches `IDLE` in at most four steps, and a `runProgram` in at
most eight, with its one response. -/
def Obligations.ExchangesTerminate : Prop :=
  ∀ s : State, Inv s → s.phase ≠ .idle → s.resetReq = false → 8 ≤ s.env.script.length →
    (∀ o ∈ s.env.script.take 8, ∃ a, o = some a ∧ a ≠ .silent) →
    ∃ k t, k ≤ (if s.runseq = .regs then 8 else 4) ∧ core.run k s = .next t ∧ t.phase = .idle ∧
      t.responses = s.responses ++ [⟨t.result, t.rdata⟩]

/-- R252: as long as the transport answers nothing, the block stays where it is, `BUSY`, with no response. How an
unanswered primitive shows in the model is the model's choice (log entry 12). -/
def Obligations.UnansweredPrimitiveHangs : Prop :=
  ∀ (n : Nat) (s : State) (more : List (Option Answer)), Inv s → s.phase ≠ .idle → s.resetReq = false →
    s.env.script = List.replicate n (some .silent) ++ more →
    ∃ t, core.run n s = .next t ∧ KeepsSequencer s t ∧ KeepsOutcome s t ∧ t.trace = s.trace ∧
      KeepsConnection s t ∧ KeepsOperands s t ∧ KeepsSticky s t ∧ t.cmds = s.cmds ∧ t.resetReq = s.resetReq ∧
      t.busy = true

/-! ### The wire commands: one exchange -/

/-- R121, `TX_PRE`: the preamble goes out; on an I/O error the operation ends in `TRANSPORT_ERROR`/`WRITE_FAILED`. -/
def Obligations.PreambleStep : Prop :=
  ∀ (i : Instr) (body : Bytes) (s : State), encodeBody i = some body → s.fault = false → s.phase = .txPre →
    (∀ x, s.env.answer (.txWrite [0x55, 0xAA]) = .ok x → ∃ t, exec i s = .next t ∧
      t.phase = .rxAck ∧ t.xop = s.xop ∧ t.runseq = s.runseq ∧ KeepsOutcome s t ∧
      AfterPrimitive (.txWrite [0x55, 0xAA]) (.ok x) s t) ∧
    (s.env.answer (.txWrite [0x55, 0xAA]) = .ioError → ∃ t, exec i s = .next t ∧
      EndedWith (0x00000009 + stageBit s) [] s t ∧ AfterPrimitive (.txWrite [0x55, 0xAA]) .ioError s t)

/-- R123: the ack is accepted exactly when one byte is read and it is 0xCC; a short ack and any other byte fail the
exchange, and the body is then not sent; an I/O error is `READ_FAILED` (R121). -/
def Obligations.AckStep : Prop :=
  ∀ (i : Instr) (body : Bytes) (s : State), encodeBody i = some body → s.fault = false → s.phase = .rxAck →
    (s.env.answer (.rxRead 1) = .ok [0xCC] → ∃ t, exec i s = .next t ∧
      t.phase = .txBody ∧ t.xop = s.xop ∧ t.runseq = s.runseq ∧ KeepsOutcome s t ∧
      AfterPrimitive (.rxRead 1) (.ok [0xCC]) s t) ∧
    (∀ b : Byte, s.env.answer (.rxRead 1) = .ok [b] → b ≠ 0xCC → ∃ t, exec i s = .next t ∧
      EndedWith (failureKind i + stageBit s + gotByteField b) [] s t ∧ AfterPrimitive (.rxRead 1) (.ok [b]) s t) ∧
    (s.env.answer (.rxRead 1) = .ok [] → ∃ t, exec i s = .next t ∧
      EndedWith (failureKind i + 0x00000008 + stageBit s) [] s t ∧ AfterPrimitive (.rxRead 1) (.ok []) s t) ∧
    (s.env.answer (.rxRead 1) = .ioError → ∃ t, exec i s = .next t ∧
      EndedWith (0x00000011 + stageBit s) [] s t ∧ AfterPrimitive (.rxRead 1) .ioError s t) ∧
    (∀ d, s.env.answer (.rxRead 1) = .ok d → d = [] ∨ ∃ b, d = [b])

/-- R121, `TX_BODY`: the body goes out in one write; a response that is not empty is then awaited; an I/O error is
`WRITE_FAILED`. -/
def Obligations.BodyStep : Prop :=
  ∀ (i : Instr) (body : Bytes) (s : State), encodeBody i = some body → s.fault = false → s.phase = .txBody →
    (∀ x, s.env.answer (.txWrite body) = .ok x → responseLength i ≠ 0 → ∃ t, exec i s = .next t ∧
      t.phase = .rxResp ∧ t.xop = s.xop ∧ t.runseq = s.runseq ∧ KeepsOutcome s t ∧
      AfterPrimitive (.txWrite body) (.ok x) s t) ∧
    (s.env.answer (.txWrite body) = .ioError → ∃ t, exec i s = .next t ∧
      EndedWith (0x00000009 + stageBit s) [] s t ∧ AfterPrimitive (.txWrite body) .ioError s t)

/-- R122: a short response fails the exchange, the partial bytes are not kept, and the read is not issued again; a read
never returns more than was asked for. An I/O error is `READ_FAILED` (R121). -/
def Obligations.ShortResponseFails : Prop :=
  (∀ (i : Instr) (body d : Bytes) (s : State), encodeBody i = some body → s.fault = false → s.phase = .rxResp →
    (s.env.answer (.rxRead (responseLength i)) = .ok d → d.length < responseLength i → ∃ t, exec i s = .next t ∧
      EndedWith (failureKind i + 0x00000018 + stageBit s + gotCountField d.length) [] s t ∧
      AfterPrimitive (.rxRead (responseLength i)) (.ok d) s t) ∧
    (s.env.answer (.rxRead (responseLength i)) = .ioError → ∃ t, exec i s = .next t ∧
      EndedWith (0x00000011 + stageBit s) [] s t ∧ AfterPrimitive (.rxRead (responseLength i)) .ioError s t)) ∧
  (∀ (e : Env) (n : Nat) (d : Bytes), e.answer (.rxRead n) = .ok d → d.length ≤ n)

/-- R124: the Sync exchange ends with the status byte, which must be 0x00. -/
def Obligations.CmdSyncCompletes : Prop :=
  ∀ (s : State) (b : Byte), s.fault = false → s.phase = .rxResp → s.env.answer (.rxRead 1) = .ok [b] →
    (b = 0x00 → ∃ t, exec .cmdSync s = .next t ∧ EndedWith 0 [] s t ∧ AfterPrimitive (.rxRead 1) (.ok [b]) s t) ∧
    (b ≠ 0x00 → ∃ t, exec .cmdSync s = .next t ∧ EndedWith (0x00000013 + stageBit s + gotByteField b) [] s t ∧
      AfterPrimitive (.rxRead 1) (.ok [b]) s t)

/-- R140: the read exchange ends with its `COUNT` response bytes in `RDATA`, or at once after its body when `COUNT` is
0. -/
def Obligations.CmdReadMemCompletes : Prop :=
  ∀ (s : State) (a : Addr) (c : Half), s.fault = false →
    (∀ d, c ≠ 0 → s.phase = .rxResp → s.env.answer (.rxRead c.toNat) = .ok d → d.length = c.toNat →
      ∃ t, exec (.cmdReadMem a c) s = .next t ∧ EndedWith 0 d s t ∧ AfterPrimitive (.rxRead c.toNat) (.ok d) s t) ∧
    (∀ x, c = 0 → s.phase = .txBody → s.env.answer (.txWrite ([0x03] ++ addr24 a ++ [0x00, 0x00])) = .ok x →
      ∃ t, exec (.cmdReadMem a c) s = .next t ∧ EndedWith 0 [] s t ∧
        AfterPrimitive (.txWrite ([0x03] ++ addr24 a ++ [0x00, 0x00])) (.ok x) s t)

/-- R141, R161: the write exchange ends when the transport has taken the whole body; in the first exchange of a
`runProgram` the Execute exchange then starts. -/
def Obligations.CmdWriteMemCompletes : Prop :=
  ∀ (s : State) (a : Addr) (d x : Bytes), s.fault = false → s.phase = .txBody →
    s.env.answer (.txWrite ([0x02] ++ addr24 a ++ le16 (BitVec.ofNat 16 d.length) ++ d)) = .ok x →
    ∃ t, exec (.cmdWriteMem a d) s = .next t ∧
      AfterPrimitive (.txWrite ([0x02] ++ addr24 a ++ le16 (BitVec.ofNat 16 d.length) ++ d)) (.ok x) s t ∧
      (if s.runseq = .regs then t.phase = .txPre ∧ t.xop = .exec ∧ t.runseq = .exec ∧ KeepsOutcome s t
       else EndedWith 0 [] s t)

/-- R160: the Execute exchange ends when the transport has taken the byte 05. -/
def Obligations.CmdExecCompletes : Prop :=
  ∀ (s : State) (x : Bytes), s.fault = false → s.phase = .txBody → s.env.answer (.txWrite [0x05]) = .ok x →
    ∃ t, exec .cmdExec s = .next t ∧ EndedWith 0 [] s t ∧ AfterPrimitive (.txWrite [0x05]) (.ok x) s t

/-- The frame of the four wire commands in every phase of an exchange and on every outcome: connection, operands, sticky
bits and command port never change, and the response registers change only when the operation ends. -/
def Obligations.WireCommandFrame : Prop :=
  ∀ (i : Instr) (body : Bytes) (s t : State), encodeBody i = some body → s.phase ≠ .idle → exec i s = .next t →
    KeepsConnection s t ∧ KeepsOperands s t ∧ KeepsSticky s t ∧ t.cmds = s.cmds ∧ t.resetReq = s.resetReq ∧
    (t.phase ≠ .idle → KeepsOutcome s t)

/-- The memory frame of the four wire commands (R50, R36, R65). Where no reference peer stands behind the transport
nothing of it changes. Reads from the transport never change memory. With the peer at a frame start the preamble changes
none; with the peer waiting for the body, a write inside the address space changes at most the bytes from its address on,
as many as its data, and the other commands none; all this on every outcome, a failed write included, whatever stale bytes
the peer has queued, and whether or not its answers are unconstrained by then. Of a write that passes 0xFFFFFF nothing is
said (R57). That memory stays as it was after an Execute is the model's reading of R65 (log entry 21). -/
def Obligations.WireCommandMemoryFrame : Prop :=
  ∀ (i : Instr) (body : Bytes) (s t : State), i.wf = true → encodeBody i = some body → exec i s = .next t →
    (s.env.board = .unconstrained → t.env.peer = s.env.peer) ∧
    (s.phase ≠ .txPre → s.phase ≠ .txBody → KeepsMemory s t) ∧
    (s.phase = .txPre → s.env.peer.inbuf = [] → s.env.peer.expectBody = false → KeepsMemory s t) ∧
    (s.phase = .txBody → s.env.peer.inbuf = [] → s.env.peer.expectBody = true →
      match i with
      | .cmdWriteMem a d => a.toNat + d.length ≤ 16777216 →
        ∀ x, x < a.toNat ∨ a.toNat + d.length ≤ x → t.env.peer.mem.read x = s.env.peer.mem.read x
      | _ => KeepsMemory s t)

/-! ### The command port -/

/-- R101: `open` while `DISCONNECTED` acquires the transport at 57600 baud with RTS/CTS, or ends in
`TRANSPORT_ERROR`/`OPEN_FAILED`; either way no byte is sent. -/
def Obligations.HostOpenCompletes : Prop :=
  ∀ (port : PortId) (s : State), s.fault = false → s.phase = .idle → s.runseq = .none → s.conn = .disconnected →
    (∀ x, s.env.answer (.tOpen port 57600 .rtsCts) = .ok x → ∃ t, exec (.hostOpen port) s = .next t ∧
      t.conn = .connected ∧ t.portId = port ∧ t.thandle = some ⟨port⟩ ∧ EndedWith 0 [] s t ∧
      KeepsOperands s t ∧ KeepsSticky s t ∧ t.cmds = s.cmds.tail ∧ t.resetReq = s.resetReq ∧
      t.env = s.env.after (.tOpen port 57600 .rtsCts) ∧
      t.trace = s.trace ++ [⟨.tOpen port 57600 .rtsCts, .ok x⟩]) ∧
    (s.env.answer (.tOpen port 57600 .rtsCts) = .ioError → ∃ t, exec (.hostOpen port) s = .next t ∧
      EndedWith 0x00000001 [] s t ∧ KeepsConnection s t ∧ KeepsOperands s t ∧ KeepsSticky s t ∧
      t.cmds = s.cmds.tail ∧ t.resetReq = s.resetReq ∧
      t.trace = s.trace ++ [⟨.tOpen port 57600 .rtsCts, .ioError⟩])

/-- R102: `close` while `CONNECTED` releases the transport and sends nothing. -/
def Obligations.HostCloseCompletes : Prop :=
  ∀ s : State, s.fault = false → s.phase = .idle → s.conn = .connected →
    ∃ t, exec .hostClose s = .next t ∧ t.conn = .disconnected ∧ t.thandle = none ∧ t.portId = s.portId ∧
      EndedWith 0 [] s t ∧ KeepsOperands s t ∧ KeepsSticky s t ∧ t.cmds = s.cmds.tail ∧ t.resetReq = s.resetReq ∧
      t.env = s.env ∧ t.trace = s.trace ++ [⟨.tClose, .ok []⟩]

/-- R124, R140, R141, R161 with R31: a connected block accepts an exchange operation by latching its operands and
starting its first exchange; nothing else changes. That acceptance is a step of its own is the model's reading of R121
(log entry 17). -/
def Obligations.ExchangeOperationsStart : Prop :=
  ∀ s : State, s.fault = false → s.phase = .idle → s.conn = .connected →
    exec .hostSynchronize s = .next { s with cmds := s.cmds.tail, xop := .sync, phase := .txPre } ∧
    (∀ a c, exec (.hostReadMemory a c) s =
      .next { s with cmds := s.cmds.tail, addr := a, count := c, xop := .read, phase := .txPre }) ∧
    (∀ a d, d.length ≤ 65535 → exec (.hostWriteMemory a d) s =
      .next { s with
        cmds := s.cmds.tail, addr := a, data := d, count := BitVec.ofNat 16 d.length, xop := .write
        phase := .txPre }) ∧
    (∀ v, exec (.hostRunProgram v) s =
      .next { s with cmds := s.cmds.tail, start := v, runseq := .regs, xop := .write, phase := .txPre })

/-- R103: an exchange operation while `DISCONNECTED` completes at once with `NOT_CONNECTED`, `RDATA = []` and no
primitive. -/
def Obligations.NotConnectedGate : Prop :=
  ∀ (s : State) (a : Addr) (c : Half) (d : Bytes) (v : Half) (i : Instr),
    s.fault = false → s.phase = .idle → s.conn = .disconnected → d.length ≤ 65535 →
    i ∈ [Instr.hostSynchronize, .hostReadMemory a c, .hostWriteMemory a d, .hostRunProgram v] →
    ∃ t, exec i s = .next t ∧ EndedWith 0x00000004 [] s t ∧ NoPrimitive s t ∧ KeepsConnection s t ∧ KeepsSticky s t ∧
      t.cmds = s.cmds.tail ∧ t.resetReq = s.resetReq

/-- R104: `open` while `CONNECTED` is dropped: `REFUSED` is set and nothing else changes. -/
def Obligations.OpenWhileConnectedIsRefused : Prop :=
  ∀ (port : PortId) (s : State), s.fault = false → s.phase = .idle → s.conn = .connected →
    exec (.hostOpen port) s = .next { s with cmds := s.cmds.tail, refused := true }

/-- R105: `close` while `DISCONNECTED` sets `FAULT` and delivers no response; the block then takes no step until reset,
which a reset ends. That the faulting operation is a next state, and the faulted block answers a fault, is the model's
reading (log entry 7). -/
def Obligations.CloseWhileDisconnectedFaults : Prop :=
  ∀ s : State, s.fault = false → s.phase = .idle → s.conn = .disconnected →
    ∃ t, exec .hostClose s = .next t ∧ t = { s with cmds := s.cmds.tail, fault := true } ∧
      t.status.getLsbD 2 = true ∧
      ∀ u : State, u.fault = true →
        (u.resetReq = false → step u = .fault .quiescent) ∧
        (u.resetReq = true → ∃ w, step u = .next w ∧ w.fault = false)

/-- R142 with R208: a `writeMemory` of more than 65535 bytes is refused, connected or not: nothing is sent, no response is
delivered, `REFUSED` is set. That its operands are not latched is the model's reading (log entry 8). -/
def Obligations.OversizeWriteIsRefused : Prop :=
  ∀ (a : Addr) (d : Bytes) (s : State), s.fault = false → s.phase = .idle → 65535 < d.length →
    exec (.hostWriteMemory a d) s = .next { s with cmds := s.cmds.tail, refused := true }

/-- R206: the reserved command codes are refused and the block stays able to accept commands. -/
def Obligations.ReservedCodesAreRefused : Prop :=
  ∀ s : State, s.fault = false → s.phase = .idle →
    exec .hostReserved6 s = .next { s with cmds := s.cmds.tail, refused := true } ∧
    exec .hostReserved7 s = .next { s with cmds := s.cmds.tail, refused := true } ∧
    (∀ (t : State) (c : Command), exec .hostReserved6 s = .next t → s.resetReq = false → t.cmds = [c] →
      step t = exec (decodeCommand c) t)

/-- R246, R31: while an exchange is in flight, the port holds every command: nothing moves. That a held command's meaning
leaves the state as it is, is the model's reading (log entry 22). -/
def Obligations.BusyPortHolds : Prop :=
  ∀ (i : Instr) (c : Command) (s : State), encode i = .port c → s.fault = false → s.phase ≠ .idle →
    exec i s = .next s

/-- R29: while `FAULT` is 1 no instruction that has a meaning runs. That each meaning then answers a fault is the model's
reading (log entry 7). -/
def Obligations.FaultedBlockRunsNothing : Prop :=
  ∀ (i : Instr) (s : State), s.fault = true → ((∃ c, encode i = .port c) ∨ (∃ b, encodeBody i = some b)) →
    exec i s = .fault .quiescent

/-- R75: the block has no body for an undefined opcode, the body decoder calls it `INVALID`, the model gives it no
meaning, and after one the reference peer's answers are unconstrained. That having no meaning is a refusal by name is the
model's reading (log entry 11). -/
def Obligations.UndefinedOpcodesHaveNoMeaning : Prop :=
  ∀ (op : Byte) (i : Instr), undefinedRow op = some i →
    encodeBody i = none ∧
    (∀ rest, decodeBody (op :: rest) = .invalid op) ∧
    (∀ s, exec i s = .refused (.undefinedOpcode op)) ∧
    (∀ (p : Peer) (o : Nat → OpenFrame) (rest : Bytes), p.expectBody = true → p.inbuf = [] →
      (p.receive o (op :: rest)).lost = true)

/-- The frame of the command-port operations, on every outcome: which of them may change which register, and that none
of them changes a byte of target memory or, but for `open`, anything behind the transport port. -/
def Obligations.HostOperationFrame : Prop :=
  ∀ (i : Instr) (c : Command) (s t : State), encode i = .port c → exec i s = .next t →
    KeepsMemory s t ∧ t.resetReq = s.resetReq ∧ (t.cmds = s.cmds ∨ t.cmds = s.cmds.tail) ∧
    (t.env ≠ s.env → ∃ p, i = .hostOpen p) ∧
    (t.trace ≠ s.trace → (∃ p, i = .hostOpen p) ∨ i = .hostClose) ∧
    (¬ KeepsConnection s t → (∃ p, i = .hostOpen p) ∨ i = .hostClose) ∧
    (t.fault ≠ s.fault → i = .hostClose) ∧
    (t.refused ≠ s.refused → (∃ p, i = .hostOpen p) ∨ i = .hostReserved6 ∨ i = .hostReserved7 ∨
      ∃ a d, i = .hostWriteMemory a d ∧ 65535 < d.length) ∧
    (t.addr ≠ s.addr → (∃ n, i = .hostReadMemory t.addr n) ∨ ∃ d, i = .hostWriteMemory t.addr d) ∧
    (t.count ≠ s.count → (∃ a, i = .hostReadMemory a t.count) ∨
      ∃ a d, i = .hostWriteMemory a d ∧ t.count.toNat = d.length) ∧
    (t.data ≠ s.data → ∃ a, i = .hostWriteMemory a t.data) ∧
    (t.start ≠ s.start → i = .hostRunProgram t.start)

/-! ### Whole operations -/

/-- R124 (the source's W2): with its four primitives answered, `synchronize` succeeds exactly when the first ack byte read
is 0xCC and the status byte read is 0x00; whatever else is read, it ends in `SYNC_FAILURE`. -/
def Obligations.SynchronizeSucceedsExactly : Prop :=
  ∀ (s : State) (rest : List Command) (more : List (Option Answer)) (x a y b : Bytes),
    Ready cmdSynchronize rest s → Scripted [.ok x, .ok a, .ok y, .ok b] more s →
    ∃ k t, k ≤ 5 ∧ core.run k s = .next t ∧ EndedWith t.result [] s t ∧ t.conn = .connected ∧ t.cmds = rest ∧
      (t.result = 0 ↔ a.head? = some 0xCC ∧ b.head? = some 0x00) ∧
      (t.result ≠ 0 → resultKind t.result = 3)

/-- R127: a Sync exchange sends `55 AA` and then `00`, in two writes, and on success receives `CC` and `00`. -/
def Obligations.SyncFrameBytes : Prop :=
  ∀ (s : State) (rest : List Command) (more : List (Option Answer)),
    Ready cmdSynchronize rest s → Scripted [.ok [], .ok [0xCC], .ok [], .ok [0x00]] more s →
    ∃ t, core.run 5 s = .next t ∧ EndedWith 0 [] s t ∧ t.env.script = more ∧
      t.trace = s.trace ++
        [⟨.txWrite [0x55, 0xAA], .ok []⟩, ⟨.rxRead 1, .ok [0xCC]⟩, ⟨.txWrite [0x00], .ok []⟩, ⟨.rxRead 1, .ok [0x00]⟩]

/-- R125, R34: whatever its four primitives answer, a `synchronize` leaves every register that a later operation reads as
it was: only `RESULT` and `RDATA` are written. -/
def Obligations.SyncIsMemoryless : Prop :=
  ∀ (s : State) (rest : List Command) (more : List (Option Answer)) (a1 a2 a3 a4 : Answer),
    Inv s → Ready cmdSynchronize rest s → Scripted [a1, a2, a3, a4] more s →
    a1 ≠ .silent → a2 ≠ .silent → a3 ≠ .silent → a4 ≠ .silent →
    ∃ k t, k ≤ 5 ∧ core.run k s = .next t ∧ EndedWith t.result [] s t ∧
      KeepsConnection s t ∧ KeepsOperands s t ∧ KeepsSequencer s t ∧ KeepsSticky s t ∧ t.cmds = rest

/-- R140: a whole `readMemory`: the wire bytes, `RESULT` and `RDATA`; with `COUNT = 0` no response read is made; a short
response ends it in `PROTOCOL_ERROR`/`SHORT_RESPONSE` with the number of bytes received and an empty `RDATA`. -/
def Obligations.ReadMemoryRun : Prop :=
  ∀ (s : State) (rest : List Command) (more : List (Option Answer)) (a : Addr) (c : Half) (d : Bytes),
    Ready (cmdReadMemory a c) rest s →
    (c ≠ 0 → d.length = c.toNat → Scripted [.ok [], .ok [0xCC], .ok [], .ok d] more s →
      ∃ t, core.run 5 s = .next t ∧ EndedWith 0 d s t ∧ t.addr = a ∧ t.count = c ∧ t.conn = .connected ∧
        t.cmds = rest ∧ t.env.script = more ∧
        t.trace = s.trace ++
          [⟨.txWrite [0x55, 0xAA], .ok []⟩, ⟨.rxRead 1, .ok [0xCC]⟩,
           ⟨.txWrite ([0x03] ++ addr24 a ++ le16 c), .ok []⟩, ⟨.rxRead c.toNat, .ok d⟩]) ∧
    (d.length < c.toNat → Scripted [.ok [], .ok [0xCC], .ok [], .ok d] more s →
      ∃ t, core.run 5 s = .next t ∧ EndedWith (0x0000001A + gotCountField d.length) [] s t ∧ t.conn = .connected) ∧
    (c = 0 → Scripted [.ok [], .ok [0xCC], .ok []] more s →
      ∃ t, core.run 4 s = .next t ∧ EndedWith 0 [] s t ∧ t.env.script = more ∧
        t.trace = s.trace ++
          [⟨.txWrite [0x55, 0xAA], .ok []⟩, ⟨.rxRead 1, .ok [0xCC]⟩,
           ⟨.txWrite ([0x03] ++ addr24 a ++ [0x00, 0x00]), .ok []⟩])

/-- R141: a whole `writeMemory`: the body, data included, goes out in one write, and there is no response read. -/
def Obligations.WriteMemoryRun : Prop :=
  ∀ (s : State) (rest : List Command) (more : List (Option Answer)) (a : Addr) (d : Bytes),
    Ready (cmdWriteMemory a d) rest s → d.length ≤ 65535 → Scripted [.ok [], .ok [0xCC], .ok []] more s →
    ∃ t, core.run 4 s = .next t ∧ EndedWith 0 [] s t ∧ t.addr = a ∧ t.data = d ∧ t.count.toNat = d.length ∧
      t.conn = .connected ∧ t.cmds = rest ∧ t.env.script = more ∧
      t.trace = s.trace ++
        [⟨.txWrite [0x55, 0xAA], .ok []⟩, ⟨.rxRead 1, .ok [0xCC]⟩,
         ⟨.txWrite ([0x02] ++ addr24 a ++ le16 (BitVec.ofNat 16 d.length) ++ d), .ok []⟩]

/-- R161: a whole `runProgram`: the RegisterBlock write to 0x7E00, then a complete Execute exchange. If the second ack is
wrong the error carries `STAGE = 1`, and if the first is wrong it carries `STAGE = 0` and `Execute` is not sent. -/
def Obligations.RunProgramRun : Prop :=
  ∀ (s : State) (rest : List Command) (more : List (Option Answer)) (v : Half) (b : Byte),
    Ready (cmdRunProgram v) rest s →
    (Scripted [.ok [], .ok [0xCC], .ok [], .ok [], .ok [0xCC], .ok []] more s →
      ∃ t, core.run 7 s = .next t ∧ EndedWith 0 [] s t ∧ t.start = v ∧ t.conn = .connected ∧ t.cmds = rest ∧
        t.env.script = more ∧
        t.trace = s.trace ++
          [⟨.txWrite [0x55, 0xAA], .ok []⟩, ⟨.rxRead 1, .ok [0xCC]⟩,
           ⟨.txWrite [0x02, 0x00, 0x7E, 0x00, 0x10, 0x00, 0x00, 0x00, 0x00, 0x00, 0x00, 0x00,
              v.extractLsb' 0 8, v.extractLsb' 8 8, 0x00, 0x00, 0xFF, 0x00, 0x00, 0x01, 0x00, 0x00], .ok []⟩,
           ⟨.txWrite [0x55, 0xAA], .ok []⟩, ⟨.rxRead 1, .ok [0xCC]⟩, ⟨.txWrite [0x05], .ok []⟩]) ∧
    (b ≠ 0xCC → Scripted [.ok [], .ok [0xCC], .ok [], .ok [], .ok [b]] more s →
      ∃ t, core.run 6 s = .next t ∧ EndedWith (0x00000022 + gotByteField b) [] s t ∧ t.conn = .connected) ∧
    (b ≠ 0xCC → Scripted [.ok [], .ok [b]] more s →
      ∃ t, core.run 3 s = .next t ∧ EndedWith (0x00000002 + gotByteField b) [] s t ∧ t.conn = .connected ∧
        t.env.script = more ∧
        t.trace = s.trace ++ [⟨.txWrite [0x55, 0xAA], .ok []⟩, ⟨.rxRead 1, .ok [b]⟩])

/-! ### Against the reference peer -/

/-- R65: what the reference peer does with each body it was waiting for, and with the preamble at a frame start, whether or
not its answers are unconstrained by then. To a transfer past 0xFFFFFF it queues some bytes as its answer, of which nothing
is said, and goes on with the next frame; that what is open there is just so much is the model's reading (log entry 20). That
an Execute leaves its memory as it was, and that frames are taken in after one, is the model's reading of R65 (log entries
21 and 27). -/
def Obligations.PeerServesFrames : Prop :=
  ∀ (p : Peer) (o : Nat → OpenFrame), p.mem.wf = true → p.inbuf = [] →
    (p.expectBody = false → p.receive o [0x55, 0xAA] = { p with q := p.q ++ [0xCC], expectBody := true }) ∧
    (p.expectBody = true →
      p.receive o [0x00] = { p with q := p.q ++ [0x00], expectBody := false } ∧
      (∀ (a : Addr) (c : Half), ∃ x : Bytes,
        p.receive o ([0x03] ++ addr24 a ++ le16 c) = { p with q := p.q ++ x, expectBody := false } ∧
        (a.toNat + c.toNat ≤ 16777216 → x = (List.range c.toNat).map (fun k => p.mem.read (a.toNat + k)))) ∧
      (∀ (a : Addr) (d : Bytes), d.length ≤ 65535 → ∃ (m : Memory) (x : Bytes),
        p.receive o ([0x02] ++ addr24 a ++ le16 (BitVec.ofNat 16 d.length) ++ d) =
          { p with mem := m, q := p.q ++ x, expectBody := false } ∧
        (a.toNat + d.length ≤ 16777216 → x = [] ∧
          (∀ k, k < d.length → m.read (a.toNat + k) = d.getD k 0) ∧
          (∀ y, y < a.toNat ∨ a.toNat + d.length ≤ y → m.read y = p.mem.read y))) ∧
      p.receive o [0x05] =
        { p with
          expectBody := false, executed := true, lost := true
          record := some ((List.range 16).map (fun k => p.mem.read (0x7E00 + k))) })

/-- R66: against the reference peer, `writeMemory(a, d)` followed by `readMemory(a, len(d))` ends with `RESULT = OK` and
`RDATA = d`; against an arbitrary board no such property holds. -/
def Obligations.WriteThenReadRoundTrip : Prop :=
  (∀ (s : State) (a : Addr) (d : Bytes) (rest : List Command), d.length ≤ 65535 → a.toNat + d.length ≤ 16777216 →
    Ready (cmdWriteMemory a d) (cmdReadMemory a (BitVec.ofNat 16 d.length) :: rest) s →
    AgainstPeer s → PeerAtFrameStart s → MemoryInv s →
    ∃ k t, core.run k s = .next t ∧ t.phase = .idle ∧ t.cmds = rest ∧ t.result = 0 ∧ t.rdata = d ∧
      t.responses = s.responses ++ [⟨0, []⟩, ⟨0, d⟩]) ∧
  (∃ (s t : State) (a : Addr) (d e : Bytes) (k : Nat),
    Inv s ∧ Ready (cmdWriteMemory a d) [cmdReadMemory a (BitVec.ofNat 16 d.length)] s ∧
    s.env.board = .unconstrained ∧ core.run k s = .next t ∧ t.responses = s.responses ++ [⟨0, []⟩, ⟨0, e⟩] ∧ e ≠ d)

/-- R144, R56: against a reference peer that waits for the body, whatever stale bytes it has queued and whether or not its
answers are unconstrained by then, a `writeMemory` whose body write fails ends in `WRITE_FAILED` and leaves each byte of its range old or new, and every other byte of memory as it
was, where the range lies inside the address space. That of a range which passes 0xFFFFFF the bytes inside the space are
old or new too is the model's choice (log entry 20), since R65 leaves such a write unconstrained. That memory is otherwise
as it was after an Execute as well is the model's reading of R65 (log entry 21). -/
def Obligations.FailedWriteLeavesOldOrNew : Prop :=
  ∀ (s : State) (a : Addr) (d : Bytes), d.length ≤ 65535 →
    s.fault = false → s.phase = .txBody → s.env.board = .reference → s.env.peer.inbuf = [] →
    s.env.peer.expectBody = true → MemoryInv s →
    s.env.answer (.txWrite ([0x02] ++ addr24 a ++ le16 (BitVec.ofNat 16 d.length) ++ d)) = .ioError →
    ∃ t, exec (.cmdWriteMem a d) s = .next t ∧ EndedWith (0x00000009 + stageBit s) [] s t ∧
      (∀ k, k < d.length → a.toNat + k < 16777216 →
        t.env.peer.mem.read (a.toNat + k) = s.env.peer.mem.read (a.toNat + k) ∨
        t.env.peer.mem.read (a.toNat + k) = d.getD k 0) ∧
      (a.toNat + d.length ≤ 16777216 →
        ∀ x, x < a.toNat ∨ a.toNat + d.length ≤ x → t.env.peer.mem.read x = s.env.peer.mem.read x)

/-! ### The Caller -/

/-- R251, R91, R143: the chunks of an image are at most 65535 bytes each, none empty, each at its own address `a + offset`
of its bytes in the image, and together they are the image. That every chunk but the last is of the largest size and that
they come in ascending order is the model's choice (log entry 28), as is the address modulo 2^24 where the image passes
the end of the space (log entry 29). -/
def Obligations.ChunksCoverImage : Prop :=
  ∀ (a : Addr) (image : Bytes),
    ((chunks image.length a image).map (fun c => c.2)).flatten = image ∧
    (∀ c ∈ chunks image.length a image, c.2 ≠ [] ∧ c.2.length ≤ 65535) ∧
    (∀ k c, (chunks image.length a image)[k]? = some c →
      c.1 = a + BitVec.ofNat 24 (65535 * k) ∧ c.2 = (image.drop (65535 * k)).take 65535 ∧
      (a.toNat + image.length ≤ 16777216 → c.1.toNat = a.toNat + 65535 * k))
end

