-- ==== Sys2Proof/Laws/Caller.lean ====
section
/-! SUPPORT. The Caller's macros: where nothing fails the moves are the macro's expansion, and every exit path after a
successful `open` passes through `close`. -/

namespace Sys2Proof.Machine

/-- Before the macro is over, `close` was the move. -/
theorem Caller.closing_finished {e f : Option CallerError} {rs : List Response}
    (h : Caller.closing e rs = .finished f) : f = e ∧ rs ≠ [] ∧ Caller.closing e [] = .issue cmdClose := by
  cases rs with
  | nil => cases h
  | cons r rs =>
    cases h
    exact ⟨rfl, by simp, rfl⟩

theorem Caller.working_closes {closes : Bool} {ts : List MacroOp} {rs : List Response} {e : Option CallerError}
    (h : Caller.working closes ts rs = .finished e) (hc : closes = true ∨ e ≠ none) :
    ∃ k, k < rs.length ∧ Caller.working closes ts (rs.take k) = .issue cmdClose := by
  induction ts generalizing rs with
  | nil =>
    simp only [Caller.working] at h
    split at h
    · rename_i hcl
      obtain ⟨-, hne, -⟩ := Caller.closing_finished h
      exact ⟨0, List.length_pos_iff.2 hne, by simp [Caller.working, hcl, Caller.closing]⟩
    · cases h
      simp_all
  | cons t ts ih =>
    cases rs with
    | nil => cases h
    | cons r rs =>
      simp only [Caller.working] at h
      split at h
      · rename_i hr
        obtain ⟨-, hne, -⟩ := Caller.closing_finished h
        refine ⟨1, ?_, by simp [Caller.working, hr, Caller.closing]⟩
        have := List.length_pos_iff.2 hne
        simp only [List.length_cons]
        omega
      · rename_i hr
        split at h
        · rename_i hm
          obtain ⟨-, hne, -⟩ := Caller.closing_finished h
          refine ⟨1, ?_, by simp [Caller.working, hr, hm, Caller.closing]⟩
          have := List.length_pos_iff.2 hne
          simp only [List.length_cons]
          omega
        · rename_i hm
          obtain ⟨k, hk, hw⟩ := ih h
          refine ⟨k + 1, by simpa using hk, ?_⟩
          simp only [List.take_succ_cons, Caller.working]
          rw [if_neg hr, if_neg hm, hw]

theorem Caller.syncing_ready {policy : SyncPolicy} {m : Macro} {seen : List (BitVec 32)}
    (h : syncVerdict policy seen = .ready) (rs : List Response) :
    Caller.syncing policy m seen rs = Caller.working m.closes m.tasks rs := by
  cases rs <;> simp [Caller.syncing, h]

theorem Caller.syncing_giveUp {policy : SyncPolicy} {m : Macro} {seen : List (BitVec 32)}
    (h : syncVerdict policy seen = .giveUp) (rs : List Response) :
    Caller.syncing policy m seen rs = Caller.closing (some .notSynchronized) rs := by
  cases rs <;> simp [Caller.syncing, h]

theorem Caller.syncing_closes {policy : SyncPolicy} {m : Macro} {seen : List (BitVec 32)} {rs : List Response}
    {e : Option CallerError} (h : Caller.syncing policy m seen rs = .finished e) (hc : m.closes = true ∨ e ≠ none) :
    ∃ k, k < rs.length ∧ Caller.syncing policy m seen (rs.take k) = .issue cmdClose := by
  induction rs generalizing seen with
  | nil =>
    cases hv : syncVerdict policy seen with
    | issueAgain => simp [Caller.syncing, hv] at h
    | ready =>
      rw [Caller.syncing_ready hv] at h
      simpa using Caller.working_closes h hc
    | giveUp =>
      rw [Caller.syncing_giveUp hv] at h
      cases h
  | cons r rs ih =>
    cases hv : syncVerdict policy seen with
    | issueAgain =>
      simp only [Caller.syncing, hv] at h
      obtain ⟨k, hk, hw⟩ := ih h
      exact ⟨k + 1, by simpa using hk, by simpa [Caller.syncing, hv] using hw⟩
    | ready =>
      rw [Caller.syncing_ready hv] at h
      obtain ⟨k, hk, hw⟩ := Caller.working_closes h hc
      exact ⟨k, hk, by rw [Caller.syncing_ready hv, hw]⟩
    | giveUp => exact ⟨0, by simp, by rw [Caller.syncing_giveUp hv]; rfl⟩

/-- R250: once `open` has succeeded, a macro that is over has issued `close()`, whatever failed in it; only a `BOOT` that
succeeded leaves the block open. -/
theorem Caller.closes_on_every_path {policy : SyncPolicy} {port : PortId} {m : Macro} {r : Response}
    {rs : List Response} {e : Option CallerError} (hr : r.result = resultOk)
    (h : Caller.next policy port m (r :: rs) = .finished e) (hc : m.closes = true ∨ e ≠ none) :
    ∃ k, k < rs.length ∧ Caller.next policy port m (r :: rs.take k) = .issue cmdClose := by
  simp only [Caller.next, hr, if_true] at h ⊢
  exact Caller.syncing_closes h hc

/-- After the response to `close()` the macro is over: no second `close` is issued (R250). -/
theorem Caller.closing_once (e : Option CallerError) (r : Response) (rs : List Response) :
    Caller.closing e (r :: rs) = .finished e := rfl

/-- Where every response is as hoped for, the tasks are issued in order and then `close()`. -/
theorem Caller.working_ok {closes : Bool} {ts : List MacroOp} {rs : List Response} (hl : rs.length ≤ ts.length)
    (hok : ∀ (k : Nat) (r : Response) (t : MacroOp), rs[k]? = some r → ts[k]? = some t →
      r.result = resultOk ∧ t.expect.any (fun chunk => verificationMismatch chunk r) = false) :
    Caller.working closes ts rs =
      match (ts.map MacroOp.cmd ++ (if closes then [cmdClose] else []))[rs.length]? with
      | some c => .issue c
      | none => .finished none := by
  induction ts generalizing rs with
  | nil =>
    obtain rfl : rs = [] := List.length_eq_zero_iff.1 (Nat.le_zero.1 hl)
    cases closes <;> rfl
  | cons t ts ih =>
    cases rs with
    | nil => rfl
    | cons r rs =>
      obtain ⟨h1, h2⟩ := hok 0 r t rfl rfl
      simp only [Caller.working, h1, h2]
      rw [if_neg (by simp), if_neg (by simp), ih (by simpa using hl) fun k r t hr ht => hok (k + 1) r t hr ht]
      simp

/-- `ALL_THREE` with three Syncs that succeed. -/
theorem Caller.next_allThree (port : PortId) (m : Macro) (d d1 d2 d3 : Bytes) (rs : List Response) :
    Caller.next .allThree port m (⟨resultOk, d⟩ :: ⟨resultOk, d1⟩ :: ⟨resultOk, d2⟩ :: ⟨resultOk, d3⟩ :: rs) =
      Caller.working m.closes m.tasks rs := by
  have h0 : syncVerdict .allThree [] = .issueAgain := by decide
  have h1 : syncVerdict .allThree [resultOk] = .issueAgain := by decide
  have h2 : syncVerdict .allThree [resultOk, resultOk] = .issueAgain := by decide
  have h3 : syncVerdict .allThree [resultOk, resultOk, resultOk] = .ready := by decide
  simp only [Caller.next, if_true, Caller.syncing, h0, List.nil_append, h1, List.cons_append, h2]
  exact Caller.syncing_ready h3 rs

/-- While a command of the Caller's is without its response nothing is issued, so none is issued twice (R209, R246). -/
theorem Caller.offer_waits {c : CallerRun} {s : State} (h : (s.responses.drop c.answered).length < c.issued) :
    Caller.offer c s = (c, s) := by
  simp only [Caller.offer]
  rw [if_neg (by omega)]

/-- What the Caller can do at the port: nothing, or issue the macro's next command, once and with every earlier command
answered. -/
theorem Caller.offer_cases (c : CallerRun) (s : State) :
    Caller.offer c s = (c, s) ∨
      ∃ cmd, (s.responses.drop c.answered).length = c.issued ∧ s.cmds = [] ∧
        Caller.next c.policy c.port c.work (s.responses.drop c.answered) = .issue cmd ∧
        Caller.offer c s = ({ c with issued := c.issued + 1 }, { s with cmds := [cmd] }) := by
  simp only [Caller.offer]
  split
  · rename_i h
    split
    · rename_i cmd hn
      exact .inr ⟨cmd, h.1, h.2, hn, rfl⟩
    · exact .inl rfl
  · exact .inl rfl

end Sys2Proof.Machine
end

