-- ==== Sys2Proof/Laws/Encoding.lean ====
section
/-! SUPPORT. The field encoders and decoders against each other, and the body codec. -/

namespace Sys2Proof

/-! ### Fields -/

theorem dec16_eq_append (b0 b1 : Byte) : dec16 b0 b1 = b1 ++ b0 := by
  unfold dec16
  ext i hi
  simp
  grind

theorem dec24_eq_append (b0 b1 b2 : Byte) : dec24 b0 b1 b2 = b2 ++ b1 ++ b0 := by
  unfold dec24
  ext i hi
  simp
  grind

theorem toNat_append_byte {w : Nat} (x : BitVec w) (b : Byte) : (x ++ b).toNat = b.toNat + 256 * x.toNat := by
  rw [BitVec.toNat_append, ← Nat.shiftLeft_add_eq_or_of_lt b.isLt, Nat.shiftLeft_eq]
  omega

theorem dec16_toNat (b0 b1 : Byte) : (dec16 b0 b1).toNat = b0.toNat + 256 * b1.toNat := by
  rw [dec16_eq_append, toNat_append_byte]

theorem dec24_toNat (b0 b1 b2 : Byte) :
    (dec24 b0 b1 b2).toNat = b0.toNat + 256 * b1.toNat + 65536 * b2.toNat := by
  rw [dec24_eq_append, toNat_append_byte, toNat_append_byte]
  omega

/-- The two bytes of `le16` decode to the value. -/
@[simp] theorem dec16_of_bytes (v : Half) : dec16 (v.extractLsb' 0 8) (v.extractLsb' 8 8) = v := by
  rw [dec16_eq_append]
  ext i hi
  simp
  grind

theorem addr24_bytes (a : Addr) : addr24 a = [a.extractLsb' 0 8, a.extractLsb' 8 8, a.extractLsb' 16 8] := by
  simp only [addr24, le16, List.cons_append, List.nil_append, List.cons.injEq, and_true]
  constructor <;> ext i hi <;> simp

/-- The three bytes of `addr24` decode to the address. -/
@[simp] theorem dec24_of_bytes (a : Addr) :
    dec24 (a.extractLsb' 0 8) (a.extractLsb' 8 8) (a.extractLsb' 16 8) = a := by
  rw [dec24_eq_append]
  ext i hi
  simp
  grind

@[simp] theorem length_addr24 (a : Addr) : (addr24 a).length = 3 := rfl

@[simp] theorem length_le16 (v : Half) : (le16 v).length = 2 := rfl

@[simp] theorem length_encodeRegblock (v : Half) : (encodeRegblock v).length = 16 := rfl

theorem toNat_length {d : Bytes} (h : d.length ≤ 65535) : (BitVec.ofNat 16 d.length).toNat = d.length := by
  rw [BitVec.toNat_ofNat]
  omega

/-! ### Bodies -/

theorem decodeBody_read (a : Addr) (c : Half) (rest : Bytes) :
    decodeBody ([opRead] ++ addr24 a ++ le16 c ++ rest) = .command (.cmdReadMem a c) 6 := by
  simp [addr24_bytes, le16, decodeBody, opRead, opSync, opExec]

theorem decodeBody_write (a : Addr) (d rest : Bytes) (h : d.length ≤ 65535) :
    decodeBody ([opWrite] ++ addr24 a ++ le16 (BitVec.ofNat 16 d.length) ++ d ++ rest) =
      .command (.cmdWriteMem a d) (6 + d.length) := by
  simp [addr24_bytes, le16, decodeBody, opWrite, opRead, opSync, opExec, toNat_length h]

end Sys2Proof
end

