-- ==== Sys2Proof/Laws/Memory.lean ====
section
/-! SUPPORT. Target memory: read after write, and that every operation keeps the canonical form. -/

namespace Sys2Proof.Machine

/-! ### The canonical form -/

theorem Memory.wf_tail {c : Host.Cell} {m : Memory} (h : Memory.wf (c :: m) = true) : Memory.wf m = true := by
  cases m with
  | nil => rfl
  | cons c' rest =>
    obtain ⟨a, v⟩ := c
    obtain ⟨b, w⟩ := c'
    simp only [Memory.wf, Bool.and_eq_true] at h
    exact h.2

/-- The first address of canonical memory lies below every later one. -/
theorem Memory.wf_head_lt {a : Nat} {v : Byte} {m : Memory} (h : Memory.wf ((a, v) :: m) = true) :
    ∀ c ∈ m, a < c.1 := by
  induction m generalizing a v with
  | nil => simp
  | cons c rest ih =>
    obtain ⟨b, w⟩ := c
    have hab : a < b := by
      simp only [Memory.wf, Bool.and_eq_true, decide_eq_true_eq] at h
      exact h.1.1
    intro c hc
    rcases List.mem_cons.1 hc with rfl | hc
    · exact hab
    · exact hab.trans (ih (Memory.wf_tail h) c hc)

theorem Memory.read_of_lt {m : Memory} {a : Nat} (h : ∀ c ∈ m, a < c.1) : Memory.read m a = unlistedByte := by
  induction m with
  | nil => rfl
  | cons c rest ih =>
    obtain ⟨b, w⟩ := c
    have hb : a < b := h (b, w) (by simp)
    simp only [Memory.read]
    rw [if_neg (by omega)]
    exact ih fun c hc => h c (by simp [hc])

/-- What the canonical form says of a memory with a first entry. -/
theorem Memory.wf_cons_iff {a : Nat} {v : Byte} {m : Memory} :
    Memory.wf ((a, v) :: m) = true ↔
      a < Config.addressSpace ∧ v ≠ unlistedByte ∧ (∀ c ∈ m, a < c.1) ∧ Memory.wf m = true := by
  constructor
  · intro h
    refine ⟨?_, ?_, Memory.wf_head_lt h, Memory.wf_tail h⟩
    · induction m generalizing a v with
      | nil =>
        simp only [Memory.wf, Bool.and_eq_true, decide_eq_true_eq] at h
        exact h.1
      | cons c rest ih =>
        obtain ⟨b, w⟩ := c
        have hb := ih (Memory.wf_tail h)
        have := Memory.wf_head_lt h (b, w) (by simp)
        simp only at this
        omega
    · cases m <;> simp_all [Memory.wf]
  · rintro ⟨ha, hv, hlt, hm⟩
    cases m with
    | nil => simp [Memory.wf, ha, hv]
    | cons c rest =>
      obtain ⟨b, w⟩ := c
      simp [Memory.wf, hv, hm, hlt (b, w) (by simp)]

/-! ### One byte -/

/-- Writing keeps what every entry of the old memory and the new address have in common. -/
theorem Memory.mem_write {m : Memory} {a : Nat} {v : Byte} {c : Host.Cell} (h : c ∈ Memory.write m a v) :
    c ∈ m ∨ c = (a, v) := by
  induction m with
  | nil =>
    simp only [Memory.write] at h
    split at h <;> simp_all
  | cons c' rest ih =>
    obtain ⟨b, w⟩ := c'
    simp only [Memory.write] at h
    grind

theorem Memory.write_wf {m : Memory} {a : Nat} (v : Byte) (hm : m.wf = true) (ha : a < Config.addressSpace) :
    (Memory.write m a v).wf = true := by
  induction m with
  | nil =>
    simp only [Memory.write]
    split <;> simp_all [Memory.wf]
  | cons c rest ih =>
    obtain ⟨b, w⟩ := c
    obtain ⟨hb, hw, hlt, hr⟩ := Memory.wf_cons_iff.1 hm
    simp only [Memory.write]
    split
    · rename_i hab
      split
      · exact hm
      · rename_i hv
        refine Memory.wf_cons_iff.2 ⟨ha, hv, ?_, hm⟩
        intro c hc
        rcases List.mem_cons.1 hc with rfl | hc
        · exact hab
        · exact hab.trans (hlt c hc)
    · split
      · rename_i hab
        subst hab
        split
        · exact hr
        · rename_i hv
          exact Memory.wf_cons_iff.2 ⟨hb, hv, hlt, hr⟩
      · refine Memory.wf_cons_iff.2 ⟨hb, hw, ?_, ih hr⟩
        intro c hc
        rcases Memory.mem_write hc with hc | rfl
        · exact hlt c hc
        · simp only
          omega

/-- A read after a write: the byte written there, every other byte as before. -/
theorem Memory.read_write {m : Memory} (hm : m.wf = true) (a : Nat) (v : Byte) (x : Nat) :
    Memory.read (Memory.write m a v) x = if x = a then v else Memory.read m x := by
  induction m with
  | nil =>
    simp only [Memory.write]
    split
    · simp_all [Memory.read]
    · simp only [Memory.read]
      grind
  | cons c rest ih =>
    obtain ⟨b, w⟩ := c
    obtain ⟨-, -, hlt, hr⟩ := Memory.wf_cons_iff.1 hm
    have ih := ih hr
    simp only [Memory.write]
    split
    · rename_i hab
      split
      · rename_i hv
        split
        · rename_i hx
          rw [hx, hv, Memory.read, if_neg (by omega)]
          exact Memory.read_of_lt fun c hc => hab.trans (hlt c hc)
        · rfl
      · simp only [Memory.read]
        grind
    · split
      · rename_i hab
        subst hab
        split
        · rename_i hv
          split
          · rename_i hx
            rw [hx, hv]
            exact Memory.read_of_lt hlt
          · rename_i hx
            rw [Memory.read, if_neg (fun h => hx h.symm)]
        · simp only [Memory.read]
          grind
      · simp only [Memory.read, ih]
        grind

/-- A write leaves every other byte alone, in any memory, canonical or not. -/
theorem Memory.read_write_other (m : Memory) (a : Nat) (v : Byte) {x : Nat} (hx : x ≠ a) :
    Memory.read (Memory.write m a v) x = Memory.read m x := by
  induction m with
  | nil =>
    simp only [Memory.write]
    split
    · rfl
    · simp only [Memory.read, if_neg (Ne.symm hx)]
  | cons c rest ih =>
    obtain ⟨b, w⟩ := c
    simp only [Memory.write]
    split
    · split
      · rfl
      · rw [Memory.read, if_neg (Ne.symm hx)]
    · split
      · rename_i hab
        subst hab
        split
        · rw [Memory.read, if_neg (Ne.symm hx)]
        · simp only [Memory.read, if_neg (Ne.symm hx)]
      · simp only [Memory.read, ih]

/-! ### Byte sequences -/

theorem Memory.read_writeBytes_outside (m : Memory) {a : Nat} {d : Bytes} {x : Nat} (hx : x < a ∨ a + d.length ≤ x) :
    Memory.read (Memory.writeBytes m a d) x = Memory.read m x := by
  induction d generalizing m a with
  | nil => rfl
  | cons v rest ih =>
    simp only [List.length_cons] at hx
    rw [Memory.writeBytes, ih _ (by omega), Memory.read_write_other _ _ _ (by omega)]

theorem Memory.read_writeSome_outside (stored : Nat → Bool) (i : Nat) (m : Memory) {a : Nat} {d : Bytes} {x : Nat}
    (hx : x < a ∨ a + d.length ≤ x) :
    Memory.read (Memory.writeSome stored i m a d) x = Memory.read m x := by
  induction d generalizing m a i with
  | nil => rfl
  | cons v rest ih =>
    simp only [List.length_cons] at hx
    rw [Memory.writeSome, ih _ _ (by omega)]
    split
    · rw [Memory.read_write_other _ _ _ (by omega)]
    · rfl


theorem Memory.writeBytes_wf {m : Memory} {a : Nat} {d : Bytes} (hm : m.wf = true)
    (h : a + d.length ≤ Config.addressSpace) : (Memory.writeBytes m a d).wf = true := by
  induction d generalizing m a with
  | nil => exact hm
  | cons v rest ih =>
    simp only [List.length_cons] at h
    exact ih (Memory.write_wf v hm (by omega)) (by omega)

theorem Memory.writeSome_wf {stored : Nat → Bool} {i : Nat} {m : Memory} {a : Nat} {d : Bytes} (hm : m.wf = true)
    (h : a + d.length ≤ Config.addressSpace) : (Memory.writeSome stored i m a d).wf = true := by
  induction d generalizing m a i with
  | nil => exact hm
  | cons v rest ih =>
    simp only [List.length_cons] at h
    simp only [Memory.writeSome]
    refine ih ?_ (by omega)
    split
    · exact Memory.write_wf v hm (by omega)
    · exact hm

theorem Memory.storeAll_wf {m : Memory} (hm : m.wf = true) (stray : List (Addr × Byte)) :
    (m.storeAll stray).wf = true := by
  induction stray generalizing m with
  | nil => exact hm
  | cons c rest ih => exact ih (Memory.write_wf c.2 hm c.1.isLt)

theorem Memory.read_storeAll_outside (m : Memory) {stray : List (Addr × Byte)} {x : Nat}
    (hx : ∀ c ∈ stray, x ≠ c.1.toNat) : (m.storeAll stray).read x = m.read x := by
  induction stray generalizing m with
  | nil => rfl
  | cons c rest ih =>
    simp only [Memory.storeAll]
    rw [ih _ fun c' hc => hx c' (List.mem_cons_of_mem _ hc),
      Memory.read_write_other _ _ _ (hx c List.mem_cons_self)]

/-- Where a byte of memory comes from after `MemWrite`: the data inside the range, the old memory outside it. -/
theorem Memory.read_writeBytes {m : Memory} {a : Nat} {d : Bytes} (hm : m.wf = true)
    (h : a + d.length ≤ Config.addressSpace) (x : Nat) :
    Memory.read (Memory.writeBytes m a d) x =
      if a ≤ x ∧ x < a + d.length then d.getD (x - a) 0 else Memory.read m x := by
  induction d generalizing m a with
  | nil => simp [Memory.writeBytes]
  | cons v rest ih =>
    simp only [List.length_cons] at h ⊢
    rw [Memory.writeBytes, ih (Memory.write_wf v hm (by omega)) (by omega), Memory.read_write hm]
    by_cases hx : x = a
    · subst hx
      simp
    · by_cases hr : a + 1 ≤ x ∧ x < a + 1 + rest.length
      · rw [if_pos hr, if_pos (by omega), show x - a = (x - (a + 1)) + 1 by omega, List.getD_cons_succ]
      · rw [if_neg hr, if_neg hx, if_neg (by omega)]

/-- After a write that failed on its way each byte of the range is old or new, and every other byte is old (I3). -/
theorem Memory.read_writeSome {stored : Nat → Bool} {i : Nat} {m : Memory} {a : Nat} {d : Bytes} (hm : m.wf = true)
    (h : a + d.length ≤ Config.addressSpace) (x : Nat) :
    Memory.read (Memory.writeSome stored i m a d) x = Memory.read m x ∨
      (a ≤ x ∧ x < a + d.length ∧ Memory.read (Memory.writeSome stored i m a d) x = d.getD (x - a) 0) := by
  induction d generalizing m a i with
  | nil => exact .inl rfl
  | cons v rest ih =>
    simp only [List.length_cons] at h ⊢
    rw [Memory.writeSome]
    have hm' : (if stored i then Memory.write m a v else m).wf = true := by
      split
      · exact Memory.write_wf v hm (by omega)
      · exact hm
    rcases ih (i := i + 1) hm' (show a + 1 + rest.length ≤ _ by omega) with h1 | ⟨h1, h2, h3⟩
    · rw [h1]
      split
      · rw [Memory.read_write hm]
        split
        · rename_i hx
          subst hx
          right
          exact ⟨le_refl _, by omega, by simp⟩
        · exact .inl rfl
      · exact .inl rfl
    · right
      refine ⟨by omega, by omega, ?_⟩
      rw [h3, show x - a = (x - (a + 1)) + 1 by omega, List.getD_cons_succ]

theorem Memory.length_readBytes (m : Memory) (a n : Nat) : (Memory.readBytes m a n).length = n := by
  induction n generalizing a with
  | zero => rfl
  | succ n ih => simp [Memory.readBytes, ih]

/-- `MemRead` is the bytes of the range, in address order. -/
theorem Memory.readBytes_eq_map (m : Memory) (a n : Nat) :
    Memory.readBytes m a n = (List.range n).map fun k => Memory.read m (a + k) := by
  induction n generalizing a with
  | zero => rfl
  | succ n ih =>
    rw [Memory.readBytes, ih, List.range_succ_eq_map, List.map_cons, List.map_map]
    simp only [Nat.add_zero, List.cons.injEq, true_and]
    apply List.map_congr_left
    intro k _
    simp only [Function.comp_apply]
    congr 1
    omega

end Sys2Proof.Machine
end

