-- ==== Sys2Proof/Laws/Peer.lean ====
section
/-! SUPPORT. The reference peer: its memory stays canonical, it takes a whole frame when it stands at a frame start, and
it takes nothing of a body that has not arrived whole. -/

namespace Sys2Proof.Machine

/-! ### Canonical memory -/

theorem Peer.perform_wf (o : OpenFrame) (p : Peer) (i : Instr) (h : p.mem.wf = true) :
    (p.perform o i).mem.wf = true := by
  cases i <;> simp only [Peer.perform] <;> try exact h
  split
  · rename_i hr
    exact Memory.writeBytes_wf h (by simpa [inRange] using hr)
  · exact Memory.storeAll_wf h o.stores

/-- Everything one round of parsing can do: perform a body, drop an undefined opcode, acknowledge a preamble, or notice
misframed bytes. -/
theorem Peer.parseOnce_cases {o : OpenFrame} {p p' : Peer} (h : p.parseOnce o = some p') :
    (∃ i k, p.expectBody = true ∧ decodeBody p.inbuf = .command i k ∧
      p' = Peer.perform o { p with inbuf := p.inbuf.drop k, expectBody := false } i) ∨
    (∃ op, p.expectBody = true ∧ decodeBody p.inbuf = .invalid op ∧
      p' = { p with inbuf := p.inbuf.drop o.taken, expectBody := false, lost := true }) ∨
    (p.expectBody = false ∧ p.inbuf.take 2 = preamble ∧
      p' = { p with inbuf := p.inbuf.drop 2, q := p.q ++ [ackByte], expectBody := true }) ∨
    (p.expectBody = false ∧ p.inbuf.take 2 ≠ preamble ∧ p' = { p with lost := true }) := by
  unfold Peer.parseOnce at h
  split at h
  · rename_i he
    split at h
    · rename_i i k hd
      exact .inl ⟨i, k, he, hd, (Option.some.inj h).symm⟩
    · cases h
    · rename_i op hd
      exact .inr (.inl ⟨op, he, hd, (Option.some.inj h).symm⟩)
  · rename_i he
    split at h
    · rename_i hpre
      exact .inr (.inr (.inl ⟨Bool.eq_false_iff.2 he, hpre, (Option.some.inj h).symm⟩))
    · rename_i hpre
      split at h
      · exact .inr (.inr (.inr ⟨Bool.eq_false_iff.2 he, hpre, (Option.some.inj h).symm⟩))
      · cases h

/-- What every round of parsing keeps, parsing keeps. -/
theorem Peer.parse_induct {P : Peer → Prop} {o : Nat → OpenFrame}
    (hstep : ∀ (k : Nat) (p p' : Peer), p.parseOnce (o k) = some p' → P p → P p') (fuel : Nat) {p : Peer} (h : P p) :
    P (Peer.parse o fuel p) := by
  induction fuel generalizing p with
  | zero => exact h
  | succ n ih =>
    simp only [Peer.parse]
    split
    · rename_i p' hp
      exact ih (hstep n p p' hp h)
    · exact h

theorem Peer.parseOnce_wf {o : OpenFrame} {p p' : Peer} (hp : p.parseOnce o = some p') (h : p.mem.wf = true) :
    p'.mem.wf = true := by
  obtain ⟨i, k, -, -, rfl⟩ | ⟨op, -, -, rfl⟩ | ⟨-, -, rfl⟩ | ⟨-, -, rfl⟩ := Peer.parseOnce_cases hp
  · exact Peer.perform_wf _ _ _ h
  all_goals exact h

theorem Peer.receive_wf (p : Peer) (o : Nat → OpenFrame) (s : Bytes) (h : p.mem.wf = true) :
    (p.receive o s).mem.wf = true :=
  Peer.parse_induct (P := fun p => p.mem.wf = true) (fun _ _ _ => Peer.parseOnce_wf) _ h

theorem Peer.failedWrite_wf (p : Peer) (stored : Nat → Bool) (stray : List (Addr × Byte)) (a : Addr) (d : Bytes)
    (h : p.mem.wf = true) : (p.failedWrite stored stray a d).mem.wf = true := by
  have ha : a.toNat < Config.addressSpace := a.isLt
  refine Memory.writeSome_wf ?_ (by rw [List.length_take]; omega)
  split
  · exact h
  · exact Memory.storeAll_wf h stray

theorem Peer.receiveFailed_wf (p : Peer) (sent : Nat) (stored : Nat → Bool) (o : Nat → OpenFrame) (s : Bytes)
    (h : p.mem.wf = true) : (p.receiveFailed sent stored o s).mem.wf = true := by
  unfold Peer.receiveFailed
  split
  · exact Peer.receive_wf _ _ _ h
  · exact Peer.receive_wf _ _ _ (Peer.failedWrite_wf _ _ _ _ _ h)

/-! ### Unconstrained answers -/

theorem Peer.perform_lost (o : OpenFrame) (p : Peer) (i : Instr) (h : p.lost = true) : (p.perform o i).lost = true := by
  cases i <;> simp only [Peer.perform] <;> first | exact h | rfl | (split <;> exact h)

/-- Later answers once unconstrained stay so. -/
theorem Peer.parse_lost (o : Nat → OpenFrame) (fuel : Nat) {p : Peer} (h : p.lost = true) :
    (Peer.parse o fuel p).lost = true := by
  refine Peer.parse_induct (P := fun p => p.lost = true) (fun k p p' hp h => ?_) fuel h
  obtain ⟨i, k, -, -, rfl⟩ | ⟨op, -, -, rfl⟩ | ⟨-, -, rfl⟩ | ⟨-, -, rfl⟩ := Peer.parseOnce_cases hp
  · exact Peer.perform_lost _ _ _ h
  · rfl
  · exact h
  · rfl

@[simp] theorem Peer.afterExecute_mem (s : Bytes) (p : Peer) : (p.afterExecute s).mem = p.mem := by
  unfold Peer.afterExecute
  split <;> rfl

theorem Peer.afterExecute_exec (p : Peer) : p.afterExecute [opExec] = { p with lost := true } := rfl

theorem Peer.afterExecute_other {s : Bytes} (h : s ≠ [opExec]) (p : Peer) : p.afterExecute s = p := if_neg h

/-! ### Where parsing stops -/

theorem Peer.parse_of_none {o : Nat → OpenFrame} {p : Peer} (h : ∀ k, p.parseOnce (o k) = none) (fuel : Nat) :
    Peer.parse o fuel p = p := by
  cases fuel <;> simp [Peer.parse, h]

/-- A peer with nothing to parse. -/
theorem Peer.parseOnce_empty {p : Peer} (o : OpenFrame) (h : p.inbuf = []) : p.parseOnce o = none := by
  simp [Peer.parseOnce, h, decodeBody, preamble]

theorem Peer.parseOnce_incomplete {p : Peer} (o : OpenFrame) (hb : p.expectBody = true)
    (h : decodeBody p.inbuf = .incomplete) : p.parseOnce o = none := by
  simp [Peer.parseOnce, hb, h]

/-- Misframed bytes that have been noticed stop the parser for good: nothing takes them from `INBUF`. -/
theorem Peer.parseOnce_misframed {p : Peer} (o : OpenFrame) (hb : p.expectBody = false) (hl : p.lost = true)
    (h : p.inbuf.take 2 ≠ preamble) : p.parseOnce o = none := by
  simp [Peer.parseOnce, hb, hl, h]

/-! ### Frames -/

@[simp] theorem Peer.perform_inbuf (o : OpenFrame) (p : Peer) (i : Instr) : (p.perform o i).inbuf = p.inbuf := by
  cases i <;> try rfl
  simp only [Peer.perform]
  split <;> rfl

@[simp] theorem Peer.perform_expectBody (o : OpenFrame) (p : Peer) (i : Instr) :
    (p.perform o i).expectBody = p.expectBody := by
  cases i <;> try rfl
  simp only [Peer.perform]
  split <;> rfl

/-- At a frame start the preamble is acknowledged, and the body is then expected. -/
theorem Peer.receive_preamble {p : Peer} (o : Nat → OpenFrame) (hi : p.inbuf = []) (he : p.expectBody = false) :
    p.receive o preamble = { p with q := p.q ++ [ackByte], expectBody := true } := by
  obtain ⟨mem, q, inbuf, expectBody, executed, record, lost⟩ := p
  simp only at hi he
  subst hi he
  rfl

/-- A peer that waits for a body takes one that arrives whole, and nothing besides. -/
theorem Peer.receive_body {p : Peer} {body : Bytes} {i : Instr} (o : Nat → OpenFrame) (hi : p.inbuf = [])
    (he : p.expectBody = true) (hd : decodeBody body = .command i body.length) :
    p.receive o body = Peer.perform (o (body.length + 1)) { p with inbuf := [], expectBody := false } i := by
  have h1 : ∀ k, Peer.parseOnce (o k) { p with inbuf := body } =
      some (Peer.perform (o k) { p with inbuf := [], expectBody := false } i) := by
    intro k
    simp [Peer.parseOnce, he, hd]
  have h2 : ∀ k k', Peer.parseOnce (o k) (Peer.perform (o k') { p with inbuf := [], expectBody := false } i) = none :=
    fun k k' => Peer.parseOnce_empty _ (by simp)
  simp only [Peer.receive, hi, List.nil_append]
  rw [Peer.parse, h1]
  exact Peer.parse_of_none (fun k => h2 k _) _

/-- Part of a body changes nothing but `INBUF`. -/
theorem Peer.receive_incomplete {p : Peer} {s : Bytes} (o : Nat → OpenFrame) (hi : p.inbuf = [])
    (he : p.expectBody = true) (hd : decodeBody s = .incomplete) : p.receive o s = { p with inbuf := s } := by
  simp only [Peer.receive, hi, List.nil_append]
  exact Peer.parse_of_none (fun k => Peer.parseOnce_incomplete (p := { p with inbuf := s }) (o k) he hd) _

/-- After an undefined opcode where a body is expected the later answers are unconstrained (R75). -/
theorem Peer.receive_invalid {p : Peer} {s : Bytes} {op : Byte} (o : Nat → OpenFrame) (hi : p.inbuf = [])
    (he : p.expectBody = true) (hd : decodeBody s = .invalid op) : (p.receive o s).lost = true := by
  have h1 : ∀ k, Peer.parseOnce (o k) { p with inbuf := s } =
      some { p with inbuf := s.drop (o k).taken, expectBody := false, lost := true } := by
    intro k
    simp [Peer.parseOnce, he, hd]
  simp only [Peer.receive, hi, List.nil_append]
  rw [Peer.parse, h1]
  exact Peer.parse_lost _ _ rfl

/-- The preamble, or part of it, changes no memory at a frame start. -/
theorem Peer.receive_preamble_part {p : Peer} (o : Nat → OpenFrame) (hi : p.inbuf = [])
    (he : p.expectBody = false) (k : Nat) : (p.receive o (preamble.take k)).mem = p.mem := by
  obtain ⟨mem, q, inbuf, expectBody, executed, record, lost⟩ := p
  simp only at hi he
  subst hi he
  match k with
  | 0 => rfl
  | 1 => rfl
  | k + 2 =>
    rw [List.take_of_length_le (by simp [preamble])]
    rfl

/-! ### A write that failed -/

/-- At a frame start no write is on its way. -/
theorem Peer.failedTarget_frameStart {p : Peer} (he : p.expectBody = false) (s : Bytes) : p.failedTarget s = none := by
  simp [Peer.failedTarget, he]

/-- Where the peer waits for a body, the write on its way is the one the body spells. -/
theorem Peer.failedTarget_body {p : Peer} {body : Bytes} {i : Instr} {n : Nat} (hi : p.inbuf = [])
    (he : p.expectBody = true) (hd : decodeBody body = .command i n) :
    p.failedTarget body =
      match i with
      | .cmdWriteMem a d => some (a, d)
      | _ => none := by
  simp only [Peer.failedTarget, he, hi, hd, and_self, if_true]
  cases i <;> rfl

/-- Where `INBUF` holds an unfinished body, a `TxWrite` that failed does what R65 has its prefix do, and no more. -/
theorem Peer.receiveFailed_unfinished {p : Peer} (hi : p.inbuf ≠ []) (sent : Nat) (stored : Nat → Bool)
    (o : Nat → OpenFrame) (s : Bytes) : p.receiveFailed sent stored o s = p.receive o (s.take sent) := by
  simp [Peer.receiveFailed, Peer.failedTarget, hi]

/-- A write that failed changes no byte outside a range that lies inside the address space. -/
theorem Peer.failedWrite_read_outside (p : Peer) (stored : Nat → Bool) (stray : List (Addr × Byte)) {a : Addr} {d : Bytes}
    (hr : a.toNat + d.length ≤ 16777216) {x : Nat} (hx : x < a.toNat ∨ a.toNat + d.length ≤ x) :
    (p.failedWrite stored stray a d).mem.read x = p.mem.read x := by
  have hin : inRange a d.length = true := decide_eq_true hr
  simp only [Peer.failedWrite, hin, if_true]
  refine Memory.read_writeSome_outside _ _ _ ?_
  rw [List.length_take]
  omega

/-- Only the first bytes of a body have arrived: the decoder waits for the rest (R85). -/
theorem decodeBody_take_incomplete {i : Instr} {body : Bytes} (hw : i.wf = true) (he : encodeBody i = some body) {k : Nat}
    (hk : k < body.length) : decodeBody (body.take k) = .incomplete := by
  match k with
  | 0 => rfl
  | k + 1 =>
    cases i <;> simp only [encodeBody, Option.some.injEq, reduceCtorEq] at he <;> subst he
    · simp at hk
    · rename_i a d
      replace hw : d.length ≤ 65535 := of_decide_eq_true hw
      simp only [addr24_bytes, le16, List.cons_append, List.nil_append, List.length_cons] at hk ⊢
      match k with
      | 0 | 1 | 2 | 3 | 4 => rfl
      | k + 5 =>
        simp only [decodeBody, List.take_succ_cons, opWrite, opRead, opSync, opExec, dec16_of_bytes,
          toNat_length hw, List.length_take]
        simp
        omega
    · simp only [addr24_bytes, le16, List.cons_append, List.nil_append, List.length_cons, List.length_nil] at hk ⊢
      match k with
      | 0 | 1 | 2 | 3 | 4 => rfl
      | k + 5 => omega
    · simp at hk

end Sys2Proof.Machine
end

