-- ==== Sys2Proof/Laws/State.lean ====
section
/-! SUPPORT. What each update of the state does to each field: one lemma per field per update, each true by `rfl`. -/

namespace Sys2Proof.Machine

variable (s : State)

/-! ### `State.issue` -/

@[simp] theorem State.issue_conn (p : Prim) : (s.issue p).conn = s.conn := rfl
@[simp] theorem State.issue_portId (p : Prim) : (s.issue p).portId = s.portId := rfl
@[simp] theorem State.issue_thandle (p : Prim) : (s.issue p).thandle = s.thandle := rfl
@[simp] theorem State.issue_phase (p : Prim) : (s.issue p).phase = s.phase := rfl
@[simp] theorem State.issue_xop (p : Prim) : (s.issue p).xop = s.xop := rfl
@[simp] theorem State.issue_runseq (p : Prim) : (s.issue p).runseq = s.runseq := rfl
@[simp] theorem State.issue_addr (p : Prim) : (s.issue p).addr = s.addr := rfl
@[simp] theorem State.issue_count (p : Prim) : (s.issue p).count = s.count := rfl
@[simp] theorem State.issue_data (p : Prim) : (s.issue p).data = s.data := rfl
@[simp] theorem State.issue_start (p : Prim) : (s.issue p).start = s.start := rfl
@[simp] theorem State.issue_rdata (p : Prim) : (s.issue p).rdata = s.rdata := rfl
@[simp] theorem State.issue_result (p : Prim) : (s.issue p).result = s.result := rfl
@[simp] theorem State.issue_fault (p : Prim) : (s.issue p).fault = s.fault := rfl
@[simp] theorem State.issue_refused (p : Prim) : (s.issue p).refused = s.refused := rfl
@[simp] theorem State.issue_cmds (p : Prim) : (s.issue p).cmds = s.cmds := rfl
@[simp] theorem State.issue_responses (p : Prim) : (s.issue p).responses = s.responses := rfl
@[simp] theorem State.issue_trace (p : Prim) : (s.issue p).trace = s.trace ++ p.events (s.env.answer p) := rfl
@[simp] theorem State.issue_resetReq (p : Prim) : (s.issue p).resetReq = s.resetReq := rfl
@[simp] theorem State.issue_env (p : Prim) : (s.issue p).env = s.env.after p := rfl

/-! ### `State.takeCommand` -/

@[simp] theorem State.takeCommand_conn : (s.takeCommand).conn = s.conn := rfl
@[simp] theorem State.takeCommand_portId : (s.takeCommand).portId = s.portId := rfl
@[simp] theorem State.takeCommand_thandle : (s.takeCommand).thandle = s.thandle := rfl
@[simp] theorem State.takeCommand_phase : (s.takeCommand).phase = s.phase := rfl
@[simp] theorem State.takeCommand_xop : (s.takeCommand).xop = s.xop := rfl
@[simp] theorem State.takeCommand_runseq : (s.takeCommand).runseq = s.runseq := rfl
@[simp] theorem State.takeCommand_addr : (s.takeCommand).addr = s.addr := rfl
@[simp] theorem State.takeCommand_count : (s.takeCommand).count = s.count := rfl
@[simp] theorem State.takeCommand_data : (s.takeCommand).data = s.data := rfl
@[simp] theorem State.takeCommand_start : (s.takeCommand).start = s.start := rfl
@[simp] theorem State.takeCommand_rdata : (s.takeCommand).rdata = s.rdata := rfl
@[simp] theorem State.takeCommand_result : (s.takeCommand).result = s.result := rfl
@[simp] theorem State.takeCommand_fault : (s.takeCommand).fault = s.fault := rfl
@[simp] theorem State.takeCommand_refused : (s.takeCommand).refused = s.refused := rfl
@[simp] theorem State.takeCommand_cmds : (s.takeCommand).cmds = s.cmds.tail := rfl
@[simp] theorem State.takeCommand_responses : (s.takeCommand).responses = s.responses := rfl
@[simp] theorem State.takeCommand_trace : (s.takeCommand).trace = s.trace := rfl
@[simp] theorem State.takeCommand_resetReq : (s.takeCommand).resetReq = s.resetReq := rfl
@[simp] theorem State.takeCommand_env : (s.takeCommand).env = s.env := rfl

/-! ### `State.finish` -/

@[simp] theorem State.finish_conn (r : BitVec 32) (d : Bytes) : (s.finish r d).conn = s.conn := rfl
@[simp] theorem State.finish_portId (r : BitVec 32) (d : Bytes) : (s.finish r d).portId = s.portId := rfl
@[simp] theorem State.finish_thandle (r : BitVec 32) (d : Bytes) : (s.finish r d).thandle = s.thandle := rfl
@[simp] theorem State.finish_phase (r : BitVec 32) (d : Bytes) : (s.finish r d).phase = .idle := rfl
@[simp] theorem State.finish_xop (r : BitVec 32) (d : Bytes) : (s.finish r d).xop = .none := rfl
@[simp] theorem State.finish_runseq (r : BitVec 32) (d : Bytes) : (s.finish r d).runseq = .none := rfl
@[simp] theorem State.finish_addr (r : BitVec 32) (d : Bytes) : (s.finish r d).addr = s.addr := rfl
@[simp] theorem State.finish_count (r : BitVec 32) (d : Bytes) : (s.finish r d).count = s.count := rfl
@[simp] theorem State.finish_data (r : BitVec 32) (d : Bytes) : (s.finish r d).data = s.data := rfl
@[simp] theorem State.finish_start (r : BitVec 32) (d : Bytes) : (s.finish r d).start = s.start := rfl
@[simp] theorem State.finish_rdata (r : BitVec 32) (d : Bytes) : (s.finish r d).rdata = d := rfl
@[simp] theorem State.finish_result (r : BitVec 32) (d : Bytes) : (s.finish r d).result = r := rfl
@[simp] theorem State.finish_fault (r : BitVec 32) (d : Bytes) : (s.finish r d).fault = s.fault := rfl
@[simp] theorem State.finish_refused (r : BitVec 32) (d : Bytes) : (s.finish r d).refused = s.refused := rfl
@[simp] theorem State.finish_cmds (r : BitVec 32) (d : Bytes) : (s.finish r d).cmds = s.cmds := rfl
@[simp] theorem State.finish_responses (r : BitVec 32) (d : Bytes) : (s.finish r d).responses =
    s.responses ++ [{ result := r, rdata := d }] := rfl
@[simp] theorem State.finish_trace (r : BitVec 32) (d : Bytes) : (s.finish r d).trace = s.trace := rfl
@[simp] theorem State.finish_resetReq (r : BitVec 32) (d : Bytes) : (s.finish r d).resetReq = s.resetReq := rfl
@[simp] theorem State.finish_env (r : BitVec 32) (d : Bytes) : (s.finish r d).env = s.env := rfl

/-! ### `State.refuse` -/

@[simp] theorem State.refuse_conn : (s.refuse).conn = s.conn := rfl
@[simp] theorem State.refuse_portId : (s.refuse).portId = s.portId := rfl
@[simp] theorem State.refuse_thandle : (s.refuse).thandle = s.thandle := rfl
@[simp] theorem State.refuse_phase : (s.refuse).phase = s.phase := rfl
@[simp] theorem State.refuse_xop : (s.refuse).xop = s.xop := rfl
@[simp] theorem State.refuse_runseq : (s.refuse).runseq = s.runseq := rfl
@[simp] theorem State.refuse_addr : (s.refuse).addr = s.addr := rfl
@[simp] theorem State.refuse_count : (s.refuse).count = s.count := rfl
@[simp] theorem State.refuse_data : (s.refuse).data = s.data := rfl
@[simp] theorem State.refuse_start : (s.refuse).start = s.start := rfl
@[simp] theorem State.refuse_rdata : (s.refuse).rdata = s.rdata := rfl
@[simp] theorem State.refuse_result : (s.refuse).result = s.result := rfl
@[simp] theorem State.refuse_fault : (s.refuse).fault = s.fault := rfl
@[simp] theorem State.refuse_refused : (s.refuse).refused = true := rfl
@[simp] theorem State.refuse_cmds : (s.refuse).cmds = s.cmds.tail := rfl
@[simp] theorem State.refuse_responses : (s.refuse).responses = s.responses := rfl
@[simp] theorem State.refuse_trace : (s.refuse).trace = s.trace := rfl
@[simp] theorem State.refuse_resetReq : (s.refuse).resetReq = s.resetReq := rfl
@[simp] theorem State.refuse_env : (s.refuse).env = s.env := rfl

/-! ### `State.setFault` -/

@[simp] theorem State.setFault_conn : (s.setFault).conn = s.conn := rfl
@[simp] theorem State.setFault_portId : (s.setFault).portId = s.portId := rfl
@[simp] theorem State.setFault_thandle : (s.setFault).thandle = s.thandle := rfl
@[simp] theorem State.setFault_phase : (s.setFault).phase = s.phase := rfl
@[simp] theorem State.setFault_xop : (s.setFault).xop = s.xop := rfl
@[simp] theorem State.setFault_runseq : (s.setFault).runseq = s.runseq := rfl
@[simp] theorem State.setFault_addr : (s.setFault).addr = s.addr := rfl
@[simp] theorem State.setFault_count : (s.setFault).count = s.count := rfl
@[simp] theorem State.setFault_data : (s.setFault).data = s.data := rfl
@[simp] theorem State.setFault_start : (s.setFault).start = s.start := rfl
@[simp] theorem State.setFault_rdata : (s.setFault).rdata = s.rdata := rfl
@[simp] theorem State.setFault_result : (s.setFault).result = s.result := rfl
@[simp] theorem State.setFault_fault : (s.setFault).fault = true := rfl
@[simp] theorem State.setFault_refused : (s.setFault).refused = s.refused := rfl
@[simp] theorem State.setFault_cmds : (s.setFault).cmds = s.cmds.tail := rfl
@[simp] theorem State.setFault_responses : (s.setFault).responses = s.responses := rfl
@[simp] theorem State.setFault_trace : (s.setFault).trace = s.trace := rfl
@[simp] theorem State.setFault_resetReq : (s.setFault).resetReq = s.resetReq := rfl
@[simp] theorem State.setFault_env : (s.setFault).env = s.env := rfl

/-! ### `State.latchRead` -/

@[simp] theorem State.latchRead_conn (a : Addr) (c : Half) : (s.latchRead a c).conn = s.conn := rfl
@[simp] theorem State.latchRead_portId (a : Addr) (c : Half) : (s.latchRead a c).portId = s.portId := rfl
@[simp] theorem State.latchRead_thandle (a : Addr) (c : Half) : (s.latchRead a c).thandle = s.thandle := rfl
@[simp] theorem State.latchRead_phase (a : Addr) (c : Half) : (s.latchRead a c).phase = s.phase := rfl
@[simp] theorem State.latchRead_xop (a : Addr) (c : Half) : (s.latchRead a c).xop = s.xop := rfl
@[simp] theorem State.latchRead_runseq (a : Addr) (c : Half) : (s.latchRead a c).runseq = s.runseq := rfl
@[simp] theorem State.latchRead_addr (a : Addr) (c : Half) : (s.latchRead a c).addr = a := rfl
@[simp] theorem State.latchRead_count (a : Addr) (c : Half) : (s.latchRead a c).count = c := rfl
@[simp] theorem State.latchRead_data (a : Addr) (c : Half) : (s.latchRead a c).data = s.data := rfl
@[simp] theorem State.latchRead_start (a : Addr) (c : Half) : (s.latchRead a c).start = s.start := rfl
@[simp] theorem State.latchRead_rdata (a : Addr) (c : Half) : (s.latchRead a c).rdata = s.rdata := rfl
@[simp] theorem State.latchRead_result (a : Addr) (c : Half) : (s.latchRead a c).result = s.result := rfl
@[simp] theorem State.latchRead_fault (a : Addr) (c : Half) : (s.latchRead a c).fault = s.fault := rfl
@[simp] theorem State.latchRead_refused (a : Addr) (c : Half) : (s.latchRead a c).refused = s.refused := rfl
@[simp] theorem State.latchRead_cmds (a : Addr) (c : Half) : (s.latchRead a c).cmds = s.cmds := rfl
@[simp] theorem State.latchRead_responses (a : Addr) (c : Half) : (s.latchRead a c).responses = s.responses := rfl
@[simp] theorem State.latchRead_trace (a : Addr) (c : Half) : (s.latchRead a c).trace = s.trace := rfl
@[simp] theorem State.latchRead_resetReq (a : Addr) (c : Half) : (s.latchRead a c).resetReq = s.resetReq := rfl
@[simp] theorem State.latchRead_env (a : Addr) (c : Half) : (s.latchRead a c).env = s.env := rfl

/-! ### `State.latchWrite` -/

@[simp] theorem State.latchWrite_conn (a : Addr) (d : Bytes) : (s.latchWrite a d).conn = s.conn := rfl
@[simp] theorem State.latchWrite_portId (a : Addr) (d : Bytes) : (s.latchWrite a d).portId = s.portId := rfl
@[simp] theorem State.latchWrite_thandle (a : Addr) (d : Bytes) : (s.latchWrite a d).thandle = s.thandle := rfl
@[simp] theorem State.latchWrite_phase (a : Addr) (d : Bytes) : (s.latchWrite a d).phase = s.phase := rfl
@[simp] theorem State.latchWrite_xop (a : Addr) (d : Bytes) : (s.latchWrite a d).xop = s.xop := rfl
@[simp] theorem State.latchWrite_runseq (a : Addr) (d : Bytes) : (s.latchWrite a d).runseq = s.runseq := rfl
@[simp] theorem State.latchWrite_addr (a : Addr) (d : Bytes) : (s.latchWrite a d).addr = a := rfl
@[simp] theorem State.latchWrite_count (a : Addr) (d : Bytes) : (s.latchWrite a d).count =
    BitVec.ofNat 16 d.length := rfl
@[simp] theorem State.latchWrite_data (a : Addr) (d : Bytes) : (s.latchWrite a d).data = d := rfl
@[simp] theorem State.latchWrite_start (a : Addr) (d : Bytes) : (s.latchWrite a d).start = s.start := rfl
@[simp] theorem State.latchWrite_rdata (a : Addr) (d : Bytes) : (s.latchWrite a d).rdata = s.rdata := rfl
@[simp] theorem State.latchWrite_result (a : Addr) (d : Bytes) : (s.latchWrite a d).result = s.result := rfl
@[simp] theorem State.latchWrite_fault (a : Addr) (d : Bytes) : (s.latchWrite a d).fault = s.fault := rfl
@[simp] theorem State.latchWrite_refused (a : Addr) (d : Bytes) : (s.latchWrite a d).refused = s.refused := rfl
@[simp] theorem State.latchWrite_cmds (a : Addr) (d : Bytes) : (s.latchWrite a d).cmds = s.cmds := rfl
@[simp] theorem State.latchWrite_responses (a : Addr) (d : Bytes) : (s.latchWrite a d).responses = s.responses := rfl
@[simp] theorem State.latchWrite_trace (a : Addr) (d : Bytes) : (s.latchWrite a d).trace = s.trace := rfl
@[simp] theorem State.latchWrite_resetReq (a : Addr) (d : Bytes) : (s.latchWrite a d).resetReq = s.resetReq := rfl
@[simp] theorem State.latchWrite_env (a : Addr) (d : Bytes) : (s.latchWrite a d).env = s.env := rfl

/-! ### `State.latchStart` -/

@[simp] theorem State.latchStart_conn (v : Half) : (s.latchStart v).conn = s.conn := rfl
@[simp] theorem State.latchStart_portId (v : Half) : (s.latchStart v).portId = s.portId := rfl
@[simp] theorem State.latchStart_thandle (v : Half) : (s.latchStart v).thandle = s.thandle := rfl
@[simp] theorem State.latchStart_phase (v : Half) : (s.latchStart v).phase = s.phase := rfl
@[simp] theorem State.latchStart_xop (v : Half) : (s.latchStart v).xop = s.xop := rfl
@[simp] theorem State.latchStart_runseq (v : Half) : (s.latchStart v).runseq = s.runseq := rfl
@[simp] theorem State.latchStart_addr (v : Half) : (s.latchStart v).addr = s.addr := rfl
@[simp] theorem State.latchStart_count (v : Half) : (s.latchStart v).count = s.count := rfl
@[simp] theorem State.latchStart_data (v : Half) : (s.latchStart v).data = s.data := rfl
@[simp] theorem State.latchStart_start (v : Half) : (s.latchStart v).start = v := rfl
@[simp] theorem State.latchStart_rdata (v : Half) : (s.latchStart v).rdata = s.rdata := rfl
@[simp] theorem State.latchStart_result (v : Half) : (s.latchStart v).result = s.result := rfl
@[simp] theorem State.latchStart_fault (v : Half) : (s.latchStart v).fault = s.fault := rfl
@[simp] theorem State.latchStart_refused (v : Half) : (s.latchStart v).refused = s.refused := rfl
@[simp] theorem State.latchStart_cmds (v : Half) : (s.latchStart v).cmds = s.cmds := rfl
@[simp] theorem State.latchStart_responses (v : Half) : (s.latchStart v).responses = s.responses := rfl
@[simp] theorem State.latchStart_trace (v : Half) : (s.latchStart v).trace = s.trace := rfl
@[simp] theorem State.latchStart_resetReq (v : Half) : (s.latchStart v).resetReq = s.resetReq := rfl
@[simp] theorem State.latchStart_env (v : Half) : (s.latchStart v).env = s.env := rfl

/-! ### `State.startExchange` -/

@[simp] theorem State.startExchange_conn (x : XOp) : (s.startExchange x).conn = s.conn := rfl
@[simp] theorem State.startExchange_portId (x : XOp) : (s.startExchange x).portId = s.portId := rfl
@[simp] theorem State.startExchange_thandle (x : XOp) : (s.startExchange x).thandle = s.thandle := rfl
@[simp] theorem State.startExchange_phase (x : XOp) : (s.startExchange x).phase = .txPre := rfl
@[simp] theorem State.startExchange_xop (x : XOp) : (s.startExchange x).xop = x := rfl
@[simp] theorem State.startExchange_runseq (x : XOp) : (s.startExchange x).runseq = s.runseq := rfl
@[simp] theorem State.startExchange_addr (x : XOp) : (s.startExchange x).addr = s.addr := rfl
@[simp] theorem State.startExchange_count (x : XOp) : (s.startExchange x).count = s.count := rfl
@[simp] theorem State.startExchange_data (x : XOp) : (s.startExchange x).data = s.data := rfl
@[simp] theorem State.startExchange_start (x : XOp) : (s.startExchange x).start = s.start := rfl
@[simp] theorem State.startExchange_rdata (x : XOp) : (s.startExchange x).rdata = s.rdata := rfl
@[simp] theorem State.startExchange_result (x : XOp) : (s.startExchange x).result = s.result := rfl
@[simp] theorem State.startExchange_fault (x : XOp) : (s.startExchange x).fault = s.fault := rfl
@[simp] theorem State.startExchange_refused (x : XOp) : (s.startExchange x).refused = s.refused := rfl
@[simp] theorem State.startExchange_cmds (x : XOp) : (s.startExchange x).cmds = s.cmds := rfl
@[simp] theorem State.startExchange_responses (x : XOp) : (s.startExchange x).responses = s.responses := rfl
@[simp] theorem State.startExchange_trace (x : XOp) : (s.startExchange x).trace = s.trace := rfl
@[simp] theorem State.startExchange_resetReq (x : XOp) : (s.startExchange x).resetReq = s.resetReq := rfl
@[simp] theorem State.startExchange_env (x : XOp) : (s.startExchange x).env = s.env := rfl

/-! ### The two ends of an operation, in terms of `State.finish` -/

@[simp] theorem State.complete_eq (v : Bytes) : s.complete v = s.finish resultOk v := rfl
@[simp] theorem State.raise_eq (e : OpError) :
    s.raise e = s.finish (e.word (decide (s.runseq = .exec))) [] := rfl

end Sys2Proof.Machine
end

