-- ==== Sys2Proof/Laws/Port.lean ====
section
/-! SUPPORT. The transport port: what an answer can be, what a primitive does to the environment, and what the script
decides. -/

namespace Sys2Proof.Machine

/-! ### Answers -/

theorem Env.answer_tClose (e : Env) : e.answer .tClose = .ok [] := rfl

theorem Env.after_tClose (e : Env) : e.after .tClose = e := rfl

/-- A read never returns more than was asked for (R7). -/
theorem Env.answer_rxRead_length {e : Env} {n : Nat} {d : Bytes} (h : e.answer (.rxRead n) = .ok d) :
    d.length ≤ n := by
  simp only [Env.answer, reduceCtorEq, if_false] at h
  cases ha : e.scripted.getD e.boardAnswer <;> simp_all [Prim.fit]
  subst h
  simp

/-- A write that succeeds carries no bytes. -/
theorem Env.answer_txWrite_ok {e : Env} {s x : Bytes} (h : e.answer (.txWrite s) = .ok x) : x = [] := by
  simp only [Env.answer, reduceCtorEq, if_false] at h
  cases ha : e.scripted.getD e.boardAnswer <;> simp_all [Prim.fit]

/-- The script decides the next answer. -/
theorem Env.answer_scripted {e : Env} {a : Answer} {more : List (Option Answer)} (h : e.script = some a :: more)
    {p : Prim} (hp : p ≠ .tClose) : e.answer p = p.fit a := by
  simp [Env.answer, hp, Env.scripted, h]

theorem Env.after_script (e : Env) {p : Prim} (hp : p ≠ .tClose) : (e.after p).script = e.script.tail := by
  simp [Env.after, hp]

@[simp] theorem Env.after_board (e : Env) (p : Prim) : (e.after p).board = e.board := by
  unfold Env.after
  split <;> rfl

/-! ### The fixture behind the port -/

theorem Env.after_peer (e : Env) {p : Prim} (hp : p ≠ .tClose) : (e.after p).peer = e.peerAfter p := by
  simp [Env.after, hp]

/-- Where the oracle answers, a primitive changes nothing of the fixture. -/
theorem Env.after_peer_unconstrained {e : Env} (h : e.board = .unconstrained) (p : Prim) : (e.after p).peer = e.peer := by
  by_cases hp : p = .tClose
  · subst hp
    rfl
  · rw [Env.after_peer e hp, Env.peerAfter.eq_def]
    simp [h]

/-- Only a `TxWrite` can change target memory. -/
theorem Env.after_mem {e : Env} {p : Prim} (hp : ∀ s, p ≠ .txWrite s) : (e.after p).peer.mem = e.peer.mem := by
  by_cases hc : p = .tClose
  · subst hc
    rfl
  · rw [Env.after_peer e hc, Env.peerAfter.eq_def]
    cases p with
    | txWrite s => exact absurd rfl (hp s)
    | rxRead n =>
      simp only
      repeat' (first | rfl | split)
    | tOpen _ _ _ =>
      simp only
      repeat' (first | rfl | split)
    | tClose => exact absurd rfl hc

/-- What a `TxWrite` can do to target memory. -/
theorem Env.after_txWrite_mem (e : Env) (s : Bytes) :
    (e.after (.txWrite s)).peer.mem = e.peer.mem ∨ (e.after (.txWrite s)).peer = (e.peer.receive (Config.openFrame e.draws) s).afterExecute s ∨
      (e.after (.txWrite s)).peer =
        e.peer.receiveFailed (Config.sentPrefix e.draws) (Config.storedNew e.draws) (Config.openFrame e.draws) s := by
  rw [Env.after_peer e (by simp), Env.peerAfter]
  repeat' (first | exact .inl rfl | exact .inr (.inl rfl) | exact .inr (.inr rfl) | split)

/-- Every primitive keeps target memory canonical. -/
theorem Env.after_wf {e : Env} (h : e.peer.mem.wf = true) (p : Prim) : (e.after p).peer.mem.wf = true := by
  cases p with
  | txWrite s =>
    rcases Env.after_txWrite_mem e s with h' | h' | h'
    · rw [h']
      exact h
    · rw [h']
      exact (Peer.afterExecute_mem _ _).symm ▸ Peer.receive_wf _ _ _ h
    · rw [h']
      exact Peer.receiveFailed_wf _ _ _ _ _ h
  | tOpen port baud flow =>
    rw [Env.after_mem (by simp)]
    exact h
  | tClose => exact h
  | rxRead n =>
    rw [Env.after_mem (by simp)]
    exact h

/-! ### Against the reference peer -/

/-- With no script and a peer that is not lost, a write is taken and reaches the peer whole. -/
theorem Env.peer_txWrite {e : Env} (hb : e.board = .reference) (hs : e.script = []) (hl : e.peer.lost = false)
    (s : Bytes) :
    e.answer (.txWrite s) = .ok [] ∧
      e.after (.txWrite s) =
        { e with peer := (e.peer.receive (Config.openFrame e.draws) s).afterExecute s, draws := e.draws + 1 } := by
  have h : e.answer (.txWrite s) = .ok [] := by simp [Env.answer, Env.scripted, hs, Env.boardAnswer, hb, hl, Prim.fit]
  refine ⟨h, ?_⟩
  simp [Env.after, Env.peerAfter, hb, h, hs]

/-- With no script and a peer that is not lost, a read takes what is queued. -/
theorem Env.peer_rxRead {e : Env} (hb : e.board = .reference) (hs : e.script = []) (hl : e.peer.lost = false)
    (n : Nat) :
    e.answer (.rxRead n) = .ok (e.peer.q.take n) ∧
      e.after (.rxRead n) =
        { e with peer := { e.peer with q := e.peer.q.drop n }, draws := e.draws + 1 } := by
  have h : e.answer (.rxRead n) = .ok (e.peer.q.take n) := by
    simp [Env.answer, Env.scripted, hs, Env.boardAnswer, hb, hl, Prim.fit]
  refine ⟨h, ?_⟩
  simp [Env.after, Env.peerAfter, hb, hl, hs, Env.scripted]

/-! ### Events -/

theorem Prim.events_silent (p : Prim) : p.events .silent = [] := rfl

theorem Prim.events_answered {p : Prim} {a : Answer} (h : a ≠ .silent) :
    p.events a = [{ prim := p, answer := a }] := by
  simp [Prim.events, h]

end Sys2Proof.Machine
end

