-- ==== Sys2Proof/Laws/Exchange.lean ====
section
/-! SUPPORT. What a step can do, said once: the guards, one exchange step, each command-port operation, and the step
itself. -/

namespace Sys2Proof.Machine

/-! ### The guards -/

theorem act_next {f : State → State} {s t : State} : act f s = .next t ↔ s.fault = false ∧ t = f s := by
  unfold act
  cases s.fault <;> simp [eq_comm]

theorem accept_next {f : State → State} {s t : State} :
    accept f s = .next t ↔ s.fault = false ∧ ((s.phase ≠ .idle ∧ t = s) ∨ (s.phase = .idle ∧ t = f s)) := by
  unfold accept
  rw [act_next]
  by_cases h : s.phase = .idle <;> simp [State.busy, h]

theorem act_ok {f : State → State} {s : State} (h : s.fault = false) : act f s = .next (f s) := by
  simp [act, h]

theorem accept_idle {f : State → State} {s : State} (h : s.fault = false) (hp : s.phase = .idle) :
    accept f s = .next (f s) := by
  simp [accept, act, h, State.busy, hp]

/-! ### Wire commands as one shape -/

/-- How the exchange of a wire command starts. -/
def startOf : Instr → State → State
  | .cmdSync => State.startExchange .sync
  | .cmdReadMem a c => fun s => (s.latchRead a c).startExchange .read
  | .cmdWriteMem a d => fun s => (s.latchWrite a d).startExchange .write
  | _ => State.startExchange .exec

/-- How the exchange of a wire command ends once its response is complete. -/
def doneOf : Instr → Bytes → State → State
  | .cmdSync => State.checkSyncStatus
  | .cmdReadMem _ _ => State.complete
  | .cmdWriteMem _ _ => fun _ s => s.afterWrite
  | _ => fun _ s => s.complete []

/-- The primitive of each phase of an exchange (R121). -/
def phasePrim (i : Instr) : Phase → Prim
  | .idle => .tClose
  | .txPre => .txWrite preamble
  | .rxAck => .rxRead 1
  | .txBody => .txWrite ((encodeBody i).getD [])
  | .rxResp => .rxRead (responseLength i)

/-- The phase that follows when the exchange goes on (R121). -/
def nextPhase : Phase → Phase
  | .idle => .txPre
  | .txPre => .rxAck
  | .rxAck => .txBody
  | .txBody => .rxResp
  | .rxResp => .idle

/-- The four wire commands run the one exchange procedure. -/
theorem exec_wire {i : Instr} {body : Bytes} (h : encodeBody i = some body) (s : State) :
    exec i s = act (State.exchange i (decide (i = .cmdSync)) (startOf i) (doneOf i)) s := by
  cases i <;> simp only [encodeBody, reduceCtorEq] at h <;> rfl

theorem phasePrim_ne_tClose (i : Instr) {p : Phase} (hp : p ≠ .idle) : phasePrim i p ≠ .tClose := by
  cases p <;> simp [phasePrim] at hp ⊢

/-- The error an exchange step can raise (R208), by phase and answer. -/
abbrev PhaseError (i : Instr) (isSync : Bool) (p : Phase) (a : Answer) (e : OpError) : Prop :=
  (p = .txPre ∧ a = .ioError ∧ e = .transport .writeFailed) ∨
  (p = .rxAck ∧ a = .ioError ∧ e = .transport .readFailed) ∨
  (p = .rxAck ∧ a = .ok [] ∧ e = .protocol isSync .shortAck) ∨
  (∃ b rest, p = .rxAck ∧ a = .ok (b :: rest) ∧ b ≠ ackByte ∧ e = .protocol isSync (.badAck b)) ∨
  (p = .txBody ∧ a = .ioError ∧ e = .transport .writeFailed) ∨
  (p = .rxResp ∧ a = .ioError ∧ e = .transport .readFailed) ∨
  (∃ d, p = .rxResp ∧ a = .ok d ∧ d.length < responseLength i ∧ e = .protocol isSync (.shortResponse d.length))

/-- When an exchange step goes on to the next phase. -/
abbrev PhaseAdvance (i : Instr) (p : Phase) (a : Answer) : Prop :=
  (∃ x, p = .txPre ∧ a = .ok x) ∨
  (∃ rest, p = .rxAck ∧ a = .ok (ackByte :: rest)) ∨
  (∃ x, p = .txBody ∧ a = .ok x ∧ responseLength i ≠ 0)

/-- When an exchange step completes the response, and with which data. -/
abbrev PhaseDone (i : Instr) (p : Phase) (a : Answer) (d : Bytes) : Prop :=
  (∃ x, p = .txBody ∧ a = .ok x ∧ responseLength i = 0 ∧ d = []) ∨
  (p = .rxResp ∧ a = .ok d ∧ responseLength i ≤ d.length)

/-- Everything one step of an exchange can do (R121). -/
theorem State.exchange_cases (i : Instr) (isSync : Bool) (start : State → State) (done : Bytes → State → State)
    {s : State} (hp : s.phase ≠ .idle) :
    (s.env.answer (phasePrim i s.phase) = .silent ∧
      s.exchange i isSync start done = s.issue (phasePrim i s.phase)) ∨
    (PhaseAdvance i s.phase (s.env.answer (phasePrim i s.phase)) ∧
      s.exchange i isSync start done = { s.issue (phasePrim i s.phase) with phase := nextPhase s.phase }) ∨
    (∃ e, PhaseError i isSync s.phase (s.env.answer (phasePrim i s.phase)) e ∧
      s.exchange i isSync start done = (s.issue (phasePrim i s.phase)).raise e) ∨
    (∃ d, PhaseDone i s.phase (s.env.answer (phasePrim i s.phase)) d ∧
      s.exchange i isSync start done = done d (s.issue (phasePrim i s.phase))) := by
  cases h : s.phase with
  | idle => exact absurd h hp
  | txPre =>
    simp only [phasePrim, State.exchange, h, State.sendPreamble, nextPhase]
    cases ha : s.env.answer (.txWrite preamble) with
    | ok x => exact .inr (.inl ⟨.inl ⟨x, rfl, rfl⟩, rfl⟩)
    | ioError => exact .inr (.inr (.inl ⟨_, .inl ⟨rfl, rfl, rfl⟩, rfl⟩))
    | silent => exact .inl ⟨rfl, rfl⟩
  | rxAck =>
    simp only [phasePrim, State.exchange, h, State.readAck, nextPhase]
    cases ha : s.env.answer (.rxRead 1) with
    | ok x =>
      cases x with
      | nil => exact .inr (.inr (.inl ⟨_, .inr (.inr (.inl ⟨rfl, rfl, rfl⟩)), rfl⟩))
      | cons b rest =>
        simp only
        split
        · rename_i hb
          subst hb
          exact .inr (.inl ⟨.inr (.inl ⟨rest, rfl, rfl⟩), rfl⟩)
        · rename_i hb
          exact .inr (.inr (.inl ⟨_, .inr (.inr (.inr (.inl ⟨b, rest, rfl, rfl, hb, rfl⟩))), rfl⟩))
    | ioError => exact .inr (.inr (.inl ⟨_, .inr (.inl ⟨rfl, rfl, rfl⟩), rfl⟩))
    | silent => exact .inl ⟨rfl, rfl⟩
  | txBody =>
    simp only [phasePrim, State.exchange, h, State.sendBody, nextPhase]
    cases ha : s.env.answer (.txWrite ((encodeBody i).getD [])) with
    | ok x =>
      simp only
      split
      · rename_i hn
        exact .inr (.inr (.inr ⟨_, .inl ⟨x, rfl, rfl, hn, rfl⟩, rfl⟩))
      · rename_i hn
        exact .inr (.inl ⟨.inr (.inr ⟨x, rfl, rfl, hn⟩), rfl⟩)
    | ioError => exact .inr (.inr (.inl ⟨_, .inr (.inr (.inr (.inr (.inl ⟨rfl, rfl, rfl⟩)))), rfl⟩))
    | silent => exact .inl ⟨rfl, rfl⟩
  | rxResp =>
    simp only [phasePrim, State.exchange, h, State.readResponse, nextPhase]
    cases ha : s.env.answer (.rxRead (responseLength i)) with
    | ok d =>
      simp only
      split
      · rename_i hn
        exact .inr (.inr (.inl ⟨_, .inr (.inr (.inr (.inr (.inr (.inr ⟨d, rfl, rfl, hn, rfl⟩))))), rfl⟩))
      · rename_i hn
        exact .inr (.inr (.inr ⟨_, .inr ⟨rfl, rfl, Nat.le_of_not_lt hn⟩, rfl⟩))
    | ioError => exact .inr (.inr (.inl ⟨_, .inr (.inr (.inr (.inr (.inr (.inl ⟨rfl, rfl, rfl⟩))))), rfl⟩))
    | silent => exact .inl ⟨rfl, rfl⟩

/-- The three ways a complete response ends an exchange: the operation is complete, its Sync status is wrong, or the
second exchange of a `runProgram` starts. -/
theorem doneOf_cases {i : Instr} {body : Bytes} (hi : encodeBody i = some body) (d : Bytes) (s : State) :
    (doneOf i d s = s.complete (match i with | .cmdReadMem _ _ => d | _ => [])) ∨
    (∃ b rest, i = .cmdSync ∧ d = b :: rest ∧ b ≠ syncOk ∧ doneOf i d s = s.raise (.protocol true (.badStatus b))) ∨
    (∃ a w, i = .cmdWriteMem a w ∧ s.runseq = .regs ∧
      doneOf i d s = { s with runseq := .exec }.startExchange .exec) := by
  cases i <;> simp only [encodeBody, reduceCtorEq] at hi
  · cases d with
    | nil => exact .inl rfl
    | cons b rest =>
      by_cases hb : b = syncOk
      · exact .inl (by simp [doneOf, State.checkSyncStatus, hb])
      · exact .inr (.inl ⟨b, rest, rfl, rfl, hb, by simp [doneOf, State.checkSyncStatus, hb]⟩)
  · rename_i a w
    cases hr : s.runseq with
    | regs => exact .inr (.inr ⟨a, w, rfl, rfl, by simp [doneOf, State.afterWrite, hr]⟩)
    | exec => exact .inl (by simp [doneOf, State.afterWrite, hr])
    | none => exact .inl (by simp [doneOf, State.afterWrite, hr])
  · exact .inl rfl
  · exact .inl rfl

/-! ### Command-port operations -/

/-- What each command-port operation does once accepted. -/
def hostBody : Instr → State → State
  | .hostOpen p => fun s => if s.conn = .connected then s.refuse else s.openPort p
  | .hostClose => fun s => if s.conn = .connected then s.closePort else s.setFault
  | .hostSynchronize => fun s => s.takeCommand.whenConnected (State.startExchange .sync)
  | .hostReadMemory a n => fun s => (s.takeCommand.latchRead a n).whenConnected (State.startExchange .read)
  | .hostWriteMemory a d => fun s =>
    if fitsOneWrite d then (s.takeCommand.latchWrite a d).whenConnected (State.startExchange .write) else s.refuse
  | .hostRunProgram v => fun s =>
    (s.takeCommand.latchStart v).whenConnected (fun s => { s with runseq := .regs }.startExchange .write)
  | _ => State.refuse

/-- The eight command-port operations are accepted alike. -/
theorem exec_host {i : Instr} {c : Command} (h : encode i = .port c) (s : State) :
    exec i s = accept (hostBody i) s := by
  cases i <;> simp only [encode, reduceCtorEq] at h <;> rfl

/-- Everything an accepted command-port operation can do at `IDLE`. -/
theorem exec_host_next {i : Instr} {c : Command} {s t : State} (he : encode i = .port c) (h : exec i s = .next t) :
    s.fault = false ∧
    ((s.phase ≠ .idle ∧ t = s) ∨
     (s.phase = .idle ∧
      ((∃ p, i = .hostOpen p ∧ ((s.conn = .connected ∧ t = s.refuse) ∨ (s.conn ≠ .connected ∧ t = s.openPort p))) ∨
       (i = .hostClose ∧ ((s.conn = .connected ∧ t = s.closePort) ∨ (s.conn ≠ .connected ∧ t = s.setFault))) ∨
       (i = .hostSynchronize ∧ t = s.takeCommand.whenConnected (State.startExchange .sync)) ∨
       (∃ a n, i = .hostReadMemory a n ∧
          t = (s.takeCommand.latchRead a n).whenConnected (State.startExchange .read)) ∨
       (∃ a d, i = .hostWriteMemory a d ∧
          ((d.length ≤ Config.maxXfer ∧
              t = (s.takeCommand.latchWrite a d).whenConnected (State.startExchange .write)) ∨
           (Config.maxXfer < d.length ∧ t = s.refuse))) ∨
       (∃ v, i = .hostRunProgram v ∧
          t = (s.takeCommand.latchStart v).whenConnected
            (fun s => { s with runseq := .regs }.startExchange .write)) ∨
       ((i = .hostReserved6 ∨ i = .hostReserved7) ∧ t = s.refuse)))) := by
  rw [exec_host he] at h
  obtain ⟨hf, ⟨hp, ht⟩ | ⟨hp, ht⟩⟩ := accept_next.1 h
  · exact ⟨hf, .inl ⟨hp, ht⟩⟩
  refine ⟨hf, .inr ⟨hp, ?_⟩⟩
  cases i <;> simp only [encode, reduceCtorEq] at he <;> simp only [hostBody] at ht
  · refine .inl ⟨_, rfl, ?_⟩
    by_cases hc : s.conn = .connected <;> simp_all
  · refine .inr (.inl ⟨rfl, ?_⟩)
    by_cases hc : s.conn = .connected <;> simp_all
  · exact .inr (.inr (.inl ⟨rfl, ht⟩))
  · exact .inr (.inr (.inr (.inl ⟨_, _, rfl, ht⟩)))
  · rename_i a d
    refine .inr (.inr (.inr (.inr (.inl ⟨_, _, rfl, ?_⟩))))
    by_cases hd : d.length ≤ Config.maxXfer
    · exact .inl ⟨hd, by simpa [fitsOneWrite, hd] using ht⟩
    · exact .inr ⟨Nat.lt_of_not_le hd, by simpa [fitsOneWrite, hd] using ht⟩
  · exact .inr (.inr (.inr (.inr (.inr (.inl ⟨_, rfl, ht⟩)))))
  · exact .inr (.inr (.inr (.inr (.inr (.inr ⟨.inl rfl, ht⟩)))))
  · exact .inr (.inr (.inr (.inr (.inr (.inr ⟨.inr rfl, ht⟩)))))

/-- The gate of R103: the exchange starts, or the operation ends in `NOT_CONNECTED`. -/
theorem State.whenConnected_cases (f : State → State) (s : State) :
    (s.conn = .connected ∧ s.whenConnected f = f s) ∨
    (s.conn ≠ .connected ∧ s.whenConnected f = s.raise .notConnected) := by
  unfold State.whenConnected
  split <;> simp_all

/-- The three things an `open` while `DISCONNECTED` can do. -/
theorem State.openPort_cases (p : PortId) (s : State) :
    (∃ x, s.env.answer (.tOpen p Config.baud Config.flow) = .ok x ∧
      s.openPort p = { s.takeCommand.issue (.tOpen p Config.baud Config.flow) with
        portId := p, thandle := some { port := p }, conn := .connected }.complete []) ∨
    (s.env.answer (.tOpen p Config.baud Config.flow) = .ioError ∧
      s.openPort p = (s.takeCommand.issue (.tOpen p Config.baud Config.flow)).raise (.transport .openFailed)) ∨
    (s.env.answer (.tOpen p Config.baud Config.flow) = .silent ∧
      s.openPort p = s.issue (.tOpen p Config.baud Config.flow)) := by
  unfold State.openPort
  split
  · rename_i x hx
    exact .inl ⟨x, hx, rfl⟩
  · rename_i hx
    exact .inr (.inl ⟨hx, rfl⟩)
  · rename_i hx
    exact .inr (.inr ⟨hx, rfl⟩)

/-! ### The step -/

theorem fetch_reset {s : State} (h : s.resetReq = true) : s.fetch = .reset := by
  simp [State.fetch, h]

theorem fetch_fault {s : State} (hr : s.resetReq = false) (hf : s.fault = true) : s.fetch = .stop .quiescent := by
  simp [State.fetch, hr, hf]

theorem fetch_wait {s : State} (hr : s.resetReq = false) (hf : s.fault = false) (hp : s.phase = .idle)
    (hc : s.cmds = []) : s.fetch = .wait := by
  simp [State.fetch, hr, hf, State.busy, hp, hc]

theorem fetch_command {s : State} {c : Command} {rest : List Command} (hr : s.resetReq = false) (hf : s.fault = false)
    (hp : s.phase = .idle) (hc : s.cmds = c :: rest) : s.fetch = .run (decodeCommand c) := by
  simp [State.fetch, hr, hf, State.busy, hp, hc]

theorem fetch_inFlight {s : State} {i : Instr} (hr : s.resetReq = false) (hf : s.fault = false) (hp : s.phase ≠ .idle)
    (hi : s.inFlight = some i) : s.fetch = .run i := by
  simp [State.fetch, hr, hf, State.busy, hp, hi]

/-- What the port holds decodes to a command-port operation. -/
theorem encode_decodeCommand (c : Command) : ∃ c', encode (decodeCommand c) = .port c' := by
  unfold decodeCommand
  repeat' split
  all_goals exact ⟨_, rfl⟩

/-- What is in flight is one of the four wire commands. -/
theorem encodeBody_inFlight {s : State} {i : Instr} (h : s.inFlight = some i) : ∃ body, encodeBody i = some body := by
  unfold State.inFlight regblockWrite at h
  repeat' split at h
  all_goals first
    | (cases h; done)
    | (cases h; exact ⟨_, rfl⟩)

/-- The body in flight is a well-formed one while `DATA` fits (R26, R142). -/
theorem wf_inFlight {s : State} {i : Instr} (hd : s.data.length ≤ Config.maxXfer) (h : s.inFlight = some i) :
    i.wf = true := by
  unfold State.inFlight regblockWrite at h
  repeat' split at h
  all_goals first
    | (cases h; done)
    | (cases h; rfl)
    | (cases h; exact decide_eq_true hd)

/-- Everything a step can do when it answers a next state. -/
theorem step_cases {s t : State} (h : step s = .next t) :
    (s.resetReq = true ∧ t = s.hwReset) ∨
    (s.resetReq = false ∧ s.fault = false ∧
      ((s.phase = .idle ∧ s.cmds = [] ∧ s.fetch = .wait ∧ t = s) ∨
       (∃ c rest, s.phase = .idle ∧ s.cmds = c :: rest ∧ s.fetch = .run (decodeCommand c) ∧
          exec (decodeCommand c) s = .next t) ∨
       (∃ i body, s.phase ≠ .idle ∧ s.inFlight = some i ∧ encodeBody i = some body ∧ s.fetch = .run i ∧
          t = s.exchange i (decide (i = .cmdSync)) (startOf i) (doneOf i)))) := by
  unfold step at h
  cases hr : s.resetReq with
  | true =>
    simp only [State.fetch, hr, if_true] at h
    exact .inl ⟨rfl, by simpa [eq_comm] using h⟩
  | false =>
    cases hf : s.fault with
    | true => simp [State.fetch, hr, hf] at h
    | false =>
      refine .inr ⟨rfl, rfl, ?_⟩
      by_cases hp : s.phase = .idle
      · cases hc : s.cmds with
        | nil =>
          have hfe : s.fetch = .wait := by simp [State.fetch, hr, hf, State.busy, hp, hc]
          rw [hfe] at h
          exact .inl ⟨hp, rfl, hfe, by simpa [eq_comm] using h⟩
        | cons c rest =>
          have hfe : s.fetch = .run (decodeCommand c) := by simp [State.fetch, hr, hf, State.busy, hp, hc]
          rw [hfe] at h
          exact .inr (.inl ⟨c, rest, hp, rfl, hfe, h⟩)
      · cases hi : s.inFlight with
        | none => simp [State.fetch, hr, hf, State.busy, hp, hi] at h
        | some i =>
          have hfe : s.fetch = .run i := by simp [State.fetch, hr, hf, State.busy, hp, hi]
          obtain ⟨body, hb⟩ := encodeBody_inFlight hi
          rw [hfe] at h
          simp only at h
          rw [exec_wire hb, act_next] at h
          exact .inr (.inr ⟨i, body, hp, rfl, hb, hfe, h.2⟩)

end Sys2Proof.Machine
end

