-- ==== Sys2Proof/Laws/PerInstr.lean ====
section
/-! SUPPORT. One lemma per instruction: its encoding stands in its own row of spec/opcode_table.json, and in the group of
rows that row belongs to. -/

namespace Sys2Proof.Laws.TableRow

/-- A row of the opcode table: which bits it is matched on, and their value. -/
inductive Row where
  /-- A wire row: `body[0] & mask = value`. -/
  | wire (value mask : Byte)
  /-- A command-port row: `CMD_OP[2:0] = value`. -/
  | port (value : BitVec 3)
  deriving DecidableEq, Repr

/-- The `match` and `mask` of each row, as the table lists them. -/
def row : Instr → Row
  | .cmdSync => .wire 0x00 0xFF
  | .reserved01 => .wire 0x01 0xFF
  | .cmdWriteMem _ _ => .wire 0x02 0xFF
  | .cmdReadMem _ _ => .wire 0x03 0xFF
  | .undefined04 => .wire 0x04 0xFF
  | .cmdExec => .wire 0x05 0xFF
  | .undefined0607 _ => .wire 0x06 0xFE
  | .undefined080F _ => .wire 0x08 0xF8
  | .undefined101F _ => .wire 0x10 0xF0
  | .undefined203F _ => .wire 0x20 0xE0
  | .undefined407F _ => .wire 0x40 0xC0
  | .undefined80FF _ => .wire 0x80 0x80
  | .hostOpen _ => .port 0
  | .hostClose => .port 1
  | .hostSynchronize => .port 2
  | .hostReadMemory _ _ => .port 3
  | .hostWriteMemory _ _ => .port 4
  | .hostRunProgram _ => .port 5
  | .hostReserved6 => .port 6
  | .hostReserved7 => .port 7

/-- The encoding is matched by the instruction's row. -/
def Statement (i : Instr) : Prop :=
  match row i with
  | .wire value mask => ∃ op rest, encode i = .body (op :: rest) ∧ op &&& mask = value
  | .port value => ∃ c, encode i = .port c ∧ c.op = value

theorem cmdSync : Statement .cmdSync := ⟨_, _, rfl, rfl⟩

theorem reserved01 : Statement .reserved01 := ⟨_, _, rfl, rfl⟩

theorem cmdWriteMem (addr : Addr) (data : Bytes) : Statement (.cmdWriteMem addr data) := ⟨_, _, rfl, rfl⟩

theorem cmdReadMem (addr : Addr) (count : Half) : Statement (.cmdReadMem addr count) := ⟨_, _, rfl, rfl⟩

theorem undefined04 : Statement .undefined04 := ⟨_, _, rfl, rfl⟩

theorem cmdExec : Statement .cmdExec := ⟨_, _, rfl, rfl⟩

theorem undefined0607 (low : BitVec 1) : Statement (.undefined0607 low) :=
  ⟨_, _, rfl, by revert low; decide⟩

theorem undefined080F (low : BitVec 3) : Statement (.undefined080F low) :=
  ⟨_, _, rfl, by revert low; decide⟩

theorem undefined101F (low : BitVec 4) : Statement (.undefined101F low) :=
  ⟨_, _, rfl, by revert low; decide⟩

theorem undefined203F (low : BitVec 5) : Statement (.undefined203F low) :=
  ⟨_, _, rfl, by revert low; decide⟩

theorem undefined407F (low : BitVec 6) : Statement (.undefined407F low) :=
  ⟨_, _, rfl, by revert low; decide⟩

theorem undefined80FF (low : BitVec 7) : Statement (.undefined80FF low) :=
  ⟨_, _, rfl, by revert low; decide⟩

theorem hostOpen (port : PortId) : Statement (.hostOpen port) := ⟨_, rfl, rfl⟩

theorem hostClose : Statement .hostClose := ⟨_, rfl, rfl⟩

theorem hostSynchronize : Statement .hostSynchronize := ⟨_, rfl, rfl⟩

theorem hostReadMemory (addr : Addr) (count : Half) : Statement (.hostReadMemory addr count) := ⟨_, rfl, rfl⟩

theorem hostWriteMemory (addr : Addr) (data : Bytes) : Statement (.hostWriteMemory addr data) := ⟨_, rfl, rfl⟩

theorem hostRunProgram (start : Half) : Statement (.hostRunProgram start) := ⟨_, rfl, rfl⟩

theorem hostReserved6 : Statement .hostReserved6 := ⟨_, rfl, rfl⟩

theorem hostReserved7 : Statement .hostReserved7 := ⟨_, rfl, rfl⟩

end Sys2Proof.Laws.TableRow
end

