-- ==== Sys2Proof/Tests/Slice0.lean ====
section
/-! SUPPORT. Tests: the well-formedness check, a word of every row written out from the spec, single steps with the
results of 95_test_vectors.md, and a witness for the hypotheses of each statement. -/

namespace Sys2Proof.Tests

open Sys2Proof.Machine
open Sys2Proof.Safety

/-! ### Small states -/

/-- Connected, at `IDLE`. -/
def linked : State := { State.reset with conn := .connected, portId := 7, thandle := some { port := 7 } }

/-- The next primitives are answered so. -/
def scripted (answers : List Answer) (s : State) : State :=
  { s with env := { s.env with script := answers.map some } }

/-- In the middle of an exchange. -/
def amid (x : XOp) (r : RunSeq) (p : Phase) (answers : List Answer) : State :=
  scripted answers { linked with xop := x, runseq := r, phase := p }

/-- With these commands at the port. -/
def offered (cmds : List Command) (s : State) : State := { s with cmds := cmds }

/-- Faulted, as `close` from reset leaves the block. -/
def faulted : State := { State.reset with fault := true }

/-- The reference peer behind the transport. -/
def withPeer (p : Peer) (s : State) : State := { s with env := { s.env with board := .reference, peer := p } }

/-- A peer that holds `01 02 03` at 0x1000. -/
def loadedPeer : Peer := { Peer.initial with mem := [(0x1000, 0x01), (0x1001, 0x02), (0x1002, 0x03)] }

/-- The next state, if there is one. -/
def after : Host.Outcome State Fault Refusal → Option State
  | .next t => some t
  | .fault _ => none
  | .refused _ => none

/-- What an outcome shows at the response port, and whether the block is connected. -/
def seen (o : Host.Outcome State Fault Refusal) : Option (BitVec 32 × Bytes × Conn × Phase) :=
  (after o).map fun t => (t.result, t.rdata, t.conn, t.phase)

/-! ### Well-formedness (R88: at most 65535 data bytes) -/

theorem test_wf_refuses_long_data : (Instr.cmdWriteMem 0 (List.replicate 65536 0)).wf = false := by
  simp only [Instr.wf, List.length_replicate, Config.maxXfer]
  decide

theorem test_wf_accepts_longest_data : (Instr.cmdWriteMem 0 (List.replicate 65535 0)).wf = true := by
  simp only [Instr.wf, List.length_replicate, Config.maxXfer]
  decide

/-! ### Words written out from the spec decode to what they stand for -/

/-- E1 to E9. -/
theorem test_field_encoders :
    addr24 0x001000 = [0x00, 0x10, 0x00] ∧ addr24 0x123456 = [0x56, 0x34, 0x12] ∧
    addr24 0x010000 = [0x00, 0x00, 0x01] ∧ addr24 0x00FFFF = [0xFF, 0xFF, 0x00] ∧
    le16 0x0003 = [0x03, 0x00] ∧ le16 0x0100 = [0x00, 0x01] ∧ le16 0x8000 = [0x00, 0x80] := by decide

/-- E10. -/
theorem test_field_decoders :
    dec24 0x56 0x34 0x12 = 0x123456 ∧ dec16 0x02 0x01 = 0x0102 ∧ dec16 0xFF 0xFF = 0xFFFF := by decide

/-- E20, E21. -/
theorem test_decode_cmdSync :
    decode (.body [0x00]) = .ok .cmdSync ∧ decodeBody [0x00, 0x55] = .command .cmdSync 1 := by decide

/-- E12. -/
theorem test_decode_cmdExec : decode (.body [0x05]) = .ok .cmdExec := by decide

/-- E13, E14, E23. -/
theorem test_decode_cmdReadMem :
    decode (.body [0x03, 0x56, 0x34, 0x12, 0x02, 0x01]) = .ok (.cmdReadMem 0x123456 0x0102) ∧
    decode (.body [0x03, 0xFF, 0xFF, 0xFF, 0xFF, 0xFF]) = .ok (.cmdReadMem 0xFFFFFF 0xFFFF) ∧
    decodeBody [0x03, 0x00, 0x10, 0x00, 0x03, 0x00] = .command (.cmdReadMem 0x001000 3) 6 := by decide

/-- E16, E25. -/
theorem test_decode_cmdWriteMem :
    decode (.body [0x02, 0xEF, 0xCD, 0xAB, 0x02, 0x00, 0xAA, 0xBB]) = .ok (.cmdWriteMem 0xABCDEF [0xAA, 0xBB]) ∧
    decodeBody [0x02, 0x00, 0x10, 0x00, 0x00, 0x00] = .command (.cmdWriteMem 0x001000 []) 6 := by decide

/-- E19, E22, E24. -/
theorem test_decode_incomplete :
    decodeBody [] = .incomplete ∧ decodeBody [0x03, 0x00, 0x10] = .incomplete ∧
    decodeBody [0x02, 0x00, 0x10, 0x00, 0x03, 0x00, 0x01, 0x02] = .incomplete := by decide

/-- E26, E27. -/
theorem test_decode_invalid :
    decodeBody [0x01] = .invalid 0x01 ∧ decodeBody [0x04] = .invalid 0x04 ∧ decodeBody [0x06] = .invalid 0x06 ∧
    decodeBody [0xFF] = .invalid 0xFF ∧ decodeBody [0x55, 0xAA] = .invalid 0x55 := by decide

/-- R75, and the table's `match` and `mask`: the first and last opcode of each undefined row. -/
theorem test_decode_undefined :
    decode (.body [0x01]) = .ok .reserved01 ∧ decode (.body [0x04]) = .ok .undefined04 ∧
    decode (.body [0x06]) = .ok (.undefined0607 0) ∧ decode (.body [0x07]) = .ok (.undefined0607 1) ∧
    decode (.body [0x08]) = .ok (.undefined080F 0) ∧ decode (.body [0x0F]) = .ok (.undefined080F 7) ∧
    decode (.body [0x10]) = .ok (.undefined101F 0) ∧ decode (.body [0x1F]) = .ok (.undefined101F 15) ∧
    decode (.body [0x20]) = .ok (.undefined203F 0) ∧ decode (.body [0x3F]) = .ok (.undefined203F 31) ∧
    decode (.body [0x40]) = .ok (.undefined407F 0) ∧ decode (.body [0x7F]) = .ok (.undefined407F 63) ∧
    decode (.body [0x80]) = .ok (.undefined80FF 0) ∧ decode (.body [0xFF]) = .ok (.undefined80FF 127) := by decide

/-- R31, R89: the code and operands of each command-port tuple, with the other operands set to something else. -/
theorem test_decode_command_port :
    decode (.port ⟨0, 5, 1, 2, [3], 4⟩) = .ok (.hostOpen 5) ∧
    decode (.port ⟨1, 5, 1, 2, [3], 4⟩) = .ok .hostClose ∧
    decode (.port ⟨2, 5, 1, 2, [3], 4⟩) = .ok .hostSynchronize ∧
    decode (.port ⟨3, 5, 0x001000, 3, [9], 4⟩) = .ok (.hostReadMemory 0x001000 3) ∧
    decode (.port ⟨4, 5, 0x001000, 2, [0x01, 0x02, 0x03], 4⟩) = .ok (.hostWriteMemory 0x001000 [0x01, 0x02, 0x03]) ∧
    decode (.port ⟨5, 5, 1, 2, [3], 0x8000⟩) = .ok (.hostRunProgram 0x8000) ∧
    decode (.port ⟨6, 5, 1, 2, [3], 4⟩) = .ok .hostReserved6 ∧
    decode (.port ⟨7, 5, 1, 2, [3], 4⟩) = .ok .hostReserved7 := by decide

/-- E28, E30, E31. -/
theorem test_regblock :
    encodeRegblock 0x8000 =
      [0x00, 0x00, 0x00, 0x00, 0x00, 0x00, 0x00, 0x80, 0x00, 0x00, 0xFF, 0x00, 0x00, 0x01, 0x00, 0x00] ∧
    encodeRegblock 0x1234 =
      [0x00, 0x00, 0x00, 0x00, 0x00, 0x00, 0x34, 0x12, 0x00, 0x00, 0xFF, 0x00, 0x00, 0x01, 0x00, 0x00] := by decide

/-- The words of the table as they are numbered: the second byte of a body is bits 15 to 8. -/
theorem test_table_words :
    decodeTableWord 8 0x55 = some (.undefined407F 0x15) ∧ decodeTableWord 8 0x05 = some (.hostRunProgram 0) ∧
    decodeTableWord 48 0x010212345603 = some (.cmdReadMem 0x123456 0x0102) ∧
    decodeTableWord 16 0x0000 = some .cmdSync ∧ decodeTableWord 16 0x5602 = some (.cmdWriteMem 0x000056 []) := by decide

/-! ### One step of each instruction -/

/-- CN1. -/
theorem test_open_ok :
    seen (exec (.hostOpen 5) (scripted [.ok []] State.reset)) = some (0x00000000, [], .connected, .idle) := by decide

/-- CN2. -/
theorem test_open_fails :
    seen (exec (.hostOpen 5) (scripted [.ioError] State.reset)) = some (0x00000001, [], .disconnected, .idle) := by
  decide

/-- CN3: no wire bytes, and the transport released. -/
theorem test_close :
    (after (exec .hostClose linked)).map (fun t => (t.status, t.thandle, t.trace)) =
      some (0x00, none, [⟨.tClose, .ok []⟩]) := by decide

/-- CN5. -/
theorem test_close_faults :
    (after (exec .hostClose State.reset)).map (fun t => (t.status, t.responses)) = some (0x04, []) := by decide

/-- R124: the Sync exchange starts. -/
theorem test_synchronize_starts :
    (after (exec .hostSynchronize linked)).map (fun t => (t.xop, t.phase)) = some (.sync, .txPre) := by decide

/-- S12. -/
theorem test_synchronize_not_connected :
    seen (exec .hostSynchronize State.reset) = some (0x00000004, [], .disconnected, .idle) := by decide

/-- R140: the operands are latched. -/
theorem test_readMemory_starts :
    (after (exec (.hostReadMemory 0x2000 5) linked)).map (fun t => (t.xop, t.addr, t.count)) =
      some (.read, 0x2000, 5) := by decide

/-- R141: `COUNT` is the length of `DATA`. -/
theorem test_writeMemory_starts :
    (after (exec (.hostWriteMemory 0x3000 [0x01, 0x02]) linked)).map (fun t => (t.xop, t.addr, t.data, t.count)) =
      some (.write, 0x3000, [0x01, 0x02], 2) := by decide

/-- M11: the refusal is checked before the connection. -/
theorem test_writeMemory_refused :
    (after (exec (.hostWriteMemory 0x3000 (List.replicate 65536 0x01)) State.reset)).map
      (fun t => (t.refused, t.responses)) = some (true, []) := by
  have h : fitsOneWrite (List.replicate 65536 0x01) = false := by
    simp only [fitsOneWrite, List.length_replicate, Config.maxXfer]
    decide
  simp only [exec, execHostWriteMemory, h]
  decide

/-- R161. -/
theorem test_runProgram_starts :
    (after (exec (.hostRunProgram 0x8000) linked)).map (fun t => (t.runseq, t.xop, t.start, t.phase)) =
      some (.regs, .write, 0x8000, .txPre) := by decide

/-- X10. -/
theorem test_runProgram_not_connected :
    seen (exec (.hostRunProgram 0x8000) State.reset) = some (0x00000004, [], .disconnected, .idle) := by decide

/-- CN7, CN8. -/
theorem test_reserved_codes :
    (after (exec .hostReserved6 State.reset)).map (fun t => t.status) = some 0x08 ∧
    (after (exec .hostReserved7 linked)).map (fun t => t.status) = some 0x09 := by decide

/-- S5: the status byte. -/
theorem test_cmdSync_bad_status :
    seen (exec .cmdSync (amid .sync .none .rxResp [.ok [0x01]])) = some (0x00000113, [], .connected, .idle) := by decide

/-- S2, S4: the ack byte. -/
theorem test_cmdSync_ack :
    seen (exec .cmdSync (amid .sync .none .rxAck [.ok [0xCD]])) = some (0x0000CD03, [], .connected, .idle) ∧
    seen (exec .cmdSync (amid .sync .none .rxAck [.ok []])) = some (0x0000000B, [], .connected, .idle) := by decide

/-- RD3. -/
theorem test_cmdReadMem_short :
    seen (exec (.cmdReadMem 0x2000 5) (amid .read .none .rxResp [.ok [0x11, 0x22, 0x33]])) =
      some (0x0003001A, [], .connected, .idle) := by decide

/-- RD8: no range check. -/
theorem test_cmdReadMem_completes :
    seen (exec (.cmdReadMem 0xFFFFFF 2) (amid .read .none .rxResp [.ok [0xAB, 0xCD]])) =
      some (0x00000000, [0xAB, 0xCD], .connected, .idle) := by decide

/-- M1: what the reference peer's memory holds after the body. -/
theorem test_cmdWriteMem_stores :
    (after (exec (.cmdWriteMem 0x1000 [0x01, 0x02, 0x03])
      (withPeer { Peer.initial with expectBody := true } (amid .write .none .txBody [])))).map
      (fun t => (t.result, t.env.peer.mem)) =
        some (0x00000000, [(0x1000, 0x01), (0x1001, 0x02), (0x1002, 0x03)]) := by decide

/-- X7: the body of Execute fails. -/
theorem test_cmdExec_fails :
    seen (exec .cmdExec (amid .exec .exec .txBody [.ioError])) = some (0x00000029, [], .connected, .idle) := by decide

/-- X5: the ack of Execute is wrong. -/
theorem test_cmdExec_bad_ack :
    seen (exec .cmdExec (amid .exec .exec .rxAck [.ok [0x00]])) = some (0x00000022, [], .connected, .idle) := by decide

/-- R75. -/
theorem test_undefined_opcode : exec (.undefined80FF 127) linked = .refused (.undefinedOpcode 0xFF) := by rfl

/-- The stale bytes of 41_sync.md R126: the peer's `Q` starts with `CC 00`, and the ack read takes the stale `CC`. -/
theorem test_stale_ack :
    (after (exec .cmdSync (withPeer { Peer.initial with q := [0xCC, 0x00, 0xCC], expectBody := true }
      (amid .sync .none .rxAck [])))).map (fun t => (t.phase, t.env.peer.q)) =
        some (.txBody, [0x00, 0xCC]) := by decide

/-- Nothing that R65 leaves open. -/
def nothingOpen : Nat → OpenFrame := fun _ => { answer := [], stores := [], taken := 0 }

/-- RD1: the reference peer queues the bytes it holds. -/
theorem test_peer_serves_read :
    ({ loadedPeer with expectBody := true }.receive nothingOpen [0x03, 0x00, 0x10, 0x00, 0x03, 0x00]).q = [0x01, 0x02, 0x03] := by
  decide

/-- Z3: reset while an ack is awaited. -/
theorem test_reset_while_busy :
    (after (step { amid .sync .none .rxAck [] with resetReq := true })).map
      (fun t => (t.status, t.phase, t.xop, t.responses, t.trace)) =
        some (0x00, .idle, .none, [], [⟨.tClose, .ok []⟩]) := by decide

/-- A placed command-port code is what the next step runs, from reset. -/
theorem test_placed_word_runs :
    (after (step (State.reset.withFetchWord 8 6))).map (fun t => t.status) = some 0x08 ∧
    (after (step (State.reset.withFetchWord 8 2))).map (fun t => t.result) = some 0x00000004 := by decide

/-! ### The Caller -/

/-- P4: the image of 65540 bytes is two chunks; here, the chunk of a short image. -/
theorem test_chunks_short :
    chunks 3 0x008000 [0xDE, 0xAD, 0xBE] = [(0x008000, [0xDE, 0xAD, 0xBE])] ∧ chunks 0 0x008000 [] = [] := by decide

/-- R242, R91: `BOOT` is an open and three Syncs. -/
theorem test_macro_boot :
    macroBoot 5 = [cmdOpen 5, cmdSynchronize, cmdSynchronize, cmdSynchronize] := by decide

/-- R205: a read that succeeds and differs is a mismatch; a failed read is none. -/
theorem test_verification :
    verificationMismatch [0x01] ⟨0, [0x02]⟩ = true ∧ verificationMismatch [0x01] ⟨0, [0x01]⟩ = false ∧
    verificationMismatch [0x01] ⟨0x11, []⟩ = false := by decide

/-- D22: the two policies. -/
theorem test_sync_policies :
    syncVerdict .allThree [0, 0, 0] = .ready ∧ syncVerdict .allThree [0, 0x00000113] = .giveUp ∧
    syncVerdict (.retry 2) [0x00000113] = .issueAgain ∧ syncVerdict (.retry 2) [0x00000113, 0] = .ready := by decide

/-- R250, R91: an `open` that fails leaves nothing to close; a Sync that fails under `ALL_THREE` is followed by
`close()`, and then the macro is over. -/
theorem test_caller_boot_failures :
    Caller.next .allThree 5 (.run 0x8000) [] = .issue (cmdOpen 5) ∧
    Caller.next .allThree 5 (.run 0x8000) [⟨0x00000001, []⟩] = .finished (some (.openFailed 0x00000001)) ∧
    Caller.next .allThree 5 (.run 0x8000) [⟨0, []⟩, ⟨0x00000113, []⟩] = .issue cmdClose ∧
    Caller.next .allThree 5 (.run 0x8000) [⟨0, []⟩, ⟨0x00000113, []⟩, ⟨0, []⟩] = .finished (some .notSynchronized) := by
  decide

/-- D22: under `RETRY(2)` a Sync that fails is issued again, and the first that succeeds is enough. -/
theorem test_caller_retry :
    Caller.next (.retry 2) 5 (.run 0x8000) [⟨0, []⟩, ⟨0x00000113, []⟩] = .issue cmdSynchronize ∧
    Caller.next (.retry 2) 5 (.run 0x8000) [⟨0, []⟩, ⟨0x00000113, []⟩, ⟨0, []⟩] = .issue (cmdRunProgram 0x8000) := by
  decide

/-- R205, R91: a readback that differs ends a verified `PROGRAM` in `close()` and `VerificationMismatch`. -/
theorem test_caller_verification :
    Caller.next (.retry 1) 5 (.program 0x8000 [0xDE] true) [⟨0, []⟩, ⟨0, []⟩, ⟨0, []⟩] =
      .issue (cmdReadMemory 0x8000 1) ∧
    Caller.next (.retry 1) 5 (.program 0x8000 [0xDE] true) [⟨0, []⟩, ⟨0, []⟩, ⟨0, []⟩, ⟨0, [0xDF]⟩] = .issue cmdClose ∧
    Caller.next (.retry 1) 5 (.program 0x8000 [0xDE] true) [⟨0, []⟩, ⟨0, []⟩, ⟨0, []⟩, ⟨0, [0xDF]⟩, ⟨0, []⟩] =
      .finished (some .verificationMismatch) := by decide

/-- R209, R246: a command that was refused and so got no response is not issued again; an answered one is followed. -/
theorem test_caller_never_repeats :
    (Caller.offer ⟨.allThree, 5, .run 0x8000, 0, 0⟩ linked) =
      (⟨.allThree, 5, .run 0x8000, 0, 1⟩, offered [cmdOpen 5] linked) ∧
    (after (step (offered [cmdOpen 5] linked))).map (fun t => (t.cmds, t.responses)) = some ([], []) ∧
    (Caller.offer ⟨.allThree, 5, .run 0x8000, 0, 1⟩ { linked with refused := true }).2.cmds = [] ∧
    (Caller.offer ⟨.allThree, 5, .run 0x8000, 0, 1⟩ { linked with responses := [⟨0, []⟩] }).2.cmds =
      [cmdSynchronize] := by decide

/-- An empty image is no chunk (log entry 28). -/
theorem test_program_empty_image :
    Caller.next (.retry 1) 5 (.program 0x8000 [] true) [⟨0, []⟩, ⟨0, []⟩] = .issue cmdClose := by decide

/-- R254, log entry 31: the response to `close` ends a run of one command; a fault that a reset cleared ends none. -/
theorem test_run_ends :
    (after (step (offered [cmdClose] linked))).any (fun t => decide (RunEnded 0 1 t)) = true ∧
    (after (step { faulted with resetReq := true })).any (fun t => decide (RunEnded 0 1 t)) = false := by decide

/-- Log entry 37: after a reset between two commands the macro goes on, and its `close` faults. -/
theorem test_caller_after_a_reset_between_commands :
    (Caller.offer ⟨.allThree, 5, .run 0x8000, 0, 1⟩ { State.reset with responses := [⟨0, []⟩] }).2.cmds =
      [cmdSynchronize] ∧
    (after (step (offered [cmdSynchronize] State.reset))).map (fun t => t.responses) = some [⟨0x00000004, []⟩] ∧
    Caller.next .allThree 5 (.run 0x8000) [⟨0, []⟩, ⟨0x00000004, []⟩] = .issue cmdClose ∧
    (after (step (offered [cmdClose] State.reset))).map (fun t => t.fault) = some true := by decide

/-- Log entry 30: a reset while `TOpen` is unanswered leaves the `open` at the port, and the next step issues it again. -/
theorem test_reset_while_open_pending :
    (after (step { scripted [.ok []] (offered [cmdOpen 5] State.reset) with resetReq := true })).map
      (fun t => (t.cmds, t.responses, (after (step t)).map (fun u => u.responses))) =
        some ([cmdOpen 5], [], some [⟨0, []⟩]) := by decide

/-! ### Witnesses: every hypothesis can be met -/

theorem test_witness_FieldDecodingInvertsEncoding :
    (List.replicate 65535 (0 : Byte)).length ≤ 65535 ∧ ([] : Bytes).length ≤ 65535 := by
  refine ⟨?_, by decide⟩
  rw [List.length_replicate]

theorem test_witness_DecodeInvertsEncode :
    (Instr.cmdWriteMem 0x007E00 [0xAA]).wf = true ∧ (Instr.undefined080F 7).wf = true ∧
    (Instr.hostReadMemory 0xFFFFFF 0xFFFF).wf = true := by decide

theorem test_witness_BodyRoundTripWithTail :
    (Instr.cmdReadMem 0x123456 0x0102).wf = true ∧
    encodeBody (.cmdReadMem 0x123456 0x0102) = some [0x03, 0x56, 0x34, 0x12, 0x02, 0x01] := by decide

theorem test_witness_BodyDecoderVerdicts :
    decodeBody [0x00, 0x55] = .command .cmdSync 1 ∧ decodeBody [0x05] = .command .cmdExec 1 ∧
    decodeBody [0x03, 0xFF, 0xFF, 0xFF, 0xFF, 0xFF, 0x00] = .command (.cmdReadMem 0xFFFFFF 0xFFFF) 6 ∧
    decodeBody [0x02, 0x00, 0x00, 0x00, 0x01, 0x00, 0x5A, 0x00] = .command (.cmdWriteMem 0 [0x5A]) 7 := by decide

theorem test_witness_OnlyFourBodies :
    Instr.cmdExec.wf = true ∧ Inv (amid .write .none .txBody []) ∧
    (amid .write .none .txBody []).inFlight = some (.cmdWriteMem 0 []) := by decide

theorem test_witness_BodiesArePrefixFree :
    Instr.cmdExec.wf = true ∧ encodeBody .cmdExec = some [0x05] ∧ [0x05] ++ ([] : Bytes) = [0x05] := by decide

theorem test_witness_ResetFromAnyState :
    State.resetReq { linked with resetReq := true } = true ∧ State.conn { linked with resetReq := true } = .connected ∧
    State.resetReq { faulted with resetReq := true } = true ∧
    State.conn { faulted with resetReq := true } = .disconnected := by decide

theorem test_witness_StatusRegister_fault :
    faulted.fault = true ∧ faulted.resetReq = false ∧
    step (offered [cmdClose] State.reset) = .next { State.reset with fault := true } := ⟨rfl, rfl, rfl⟩

theorem test_witness_StatusRegister_refused :
    step (offered [bareCommand 6] State.reset) = .next { State.reset with refused := true } ∧
    step (offered [bareCommand 7] State.reset) = .next { State.reset with refused := true } ∧
    step (offered [cmdOpen 5] linked) = .next { linked with refused := true } := ⟨rfl, rfl, rfl⟩

theorem test_witness_StatusRegister_oversize :
    step (offered [cmdWriteMemory 0 (List.replicate 65536 0)] linked) = .next { linked with refused := true } ∧
    65535 < (List.replicate 65536 (0 : Byte)).length := by
  have h : fitsOneWrite (List.replicate 65536 0) = false := by
    simp only [fitsOneWrite, List.length_replicate, Config.maxXfer]
    decide
  constructor
  · show exec (.hostWriteMemory 0 (List.replicate 65536 0)) (offered [cmdWriteMemory 0 (List.replicate 65536 0)] linked) = _
    simp only [exec, execHostWriteMemory, h]
    rfl
  · simp only [List.length_replicate]
    decide

theorem test_witness_TransportConfiguration :
    (after (step (scripted [.ok []] (offered [cmdOpen 5] State.reset)))).map (fun t => t.portId) = some 5 ∧
    State.reset.portId ≠ 5 := by decide

theorem test_witness_StepRunsNextInstruction :
    linked.resetReq = false ∧ linked.fault = false ∧ linked.phase = .idle ∧ linked.cmds = [] ∧
    (offered [cmdClose] linked).cmds = cmdClose :: [] ∧
    (amid .sync .none .rxAck []).phase ≠ .idle ∧ (amid .sync .none .rxAck []).inFlight = some .cmdSync ∧
    (amid .write .regs .txBody []).inFlight = some (.cmdWriteMem 0x007E00 (encodeRegblock 0)) := by decide

theorem test_witness_StepKeepsInvariant :
    Inv (amid .sync .none .rxAck [.ok [0xCC]]) ∧
    (after (step (amid .sync .none .rxAck [.ok [0xCC]]))).isSome = true := by decide

theorem test_witness_OnlyFaultedBlockStops : Inv linked ∧ Inv faulted :=
  ⟨by decide, by decide⟩

theorem test_witness_ConnectionMovesOnlyByOpenAndClose :
    (after (step (scripted [.ok []] (offered [cmdOpen 5] State.reset)))).map (fun t => t.conn) = some .connected ∧
    (after (step (offered [cmdClose] linked))).map (fun t => t.conn) = some .disconnected := by decide

theorem test_witness_OnePrimitiveInSequence :
    (after (step (amid .sync .none .txPre [.ok []]))).map (fun t => t.trace) =
      some [⟨.txWrite [0x55, 0xAA], .ok []⟩] ∧
    (after (step (amid .read .none .txPre [.silent]))).map (fun t => t.trace) = some [] := by decide

/-- One state for each way a step at `IDLE` can go: no command, an `open` that is not answered, a command that is taken. -/
theorem test_witness_OneResponsePerOperation :
    (after (step linked)).isSome = true ∧ linked.phase = .idle ∧ linked.cmds = [] ∧
    (after (step (scripted [.silent] (offered [cmdOpen 5] State.reset)))).map (fun t => (t.cmds, t.responses)) =
      some ([cmdOpen 5], []) ∧
    (after (step (offered [cmdSynchronize] linked))).map (fun t => t.phase) = some .txPre ∧
    (after (step (offered [cmdClose] linked))).map (fun t => t.responses) = some [⟨0, []⟩] := by decide

/-- A command that R206 refuses, with `REFUSED` already 1, and the one that faults. -/
theorem test_witness_OneResponsePerOperation_refused :
    RefusedNext (offered [cmdOpen 5] { linked with refused := true }) ∧
    (after (step (offered [cmdOpen 5] { linked with refused := true }))).map (fun t => (t.cmds, t.refused, t.responses)) =
      some ([], true, []) ∧
    FaultingNext (offered [cmdClose] State.reset) ∧
    (after (step (offered [cmdClose] State.reset))).map (fun t => (t.cmds, t.fault, t.responses)) =
      some ([], true, []) :=
  ⟨.inr (.inr (.inl ⟨5, rfl, rfl⟩)), by decide, ⟨rfl, rfl⟩, by decide⟩

theorem test_witness_OneResponsePerOperation_busy :
    (after (step (amid .exec .exec .txBody [.ok []]))).map (fun t => t.responses) = some [⟨0, []⟩] ∧
    (after (step (amid .exec .exec .txPre [.ok []]))).map (fun t => t.phase) = some .rxAck := by decide

theorem test_witness_PhaseFollowsTable :
    Inv (amid .sync .none .txBody [.ok []]) ∧ (amid .sync .none .txBody [.ok []]).resetReq = false ∧
    (after (step (amid .sync .none .txBody [.ok []]))).map (fun t => t.phase) = some .rxResp := by decide

theorem test_witness_PhaseFollowsTable_second :
    Inv (amid .write .regs .txBody [.ok []]) ∧
    (after (step (amid .write .regs .txBody [.ok []]))).map (fun t => t.phase) = some .txPre := by decide

theorem test_witness_PhaseFollowsTable_ack :
    Inv (amid .read .none .rxAck [.ok [0x00]]) ∧
    (after (step (amid .read .none .rxAck [.ok [0x00]]))).map (fun t => t.phase) = some .idle ∧
    (after (step (amid .read .none .rxAck [.ok [0xCC]]))).map (fun t => t.phase) = some .txBody := by decide

theorem test_witness_ErrorEndsOperation :
    Inv (amid .sync .none .txPre [.ioError]) ∧ (amid .sync .none .txPre [.ioError]).resetReq = false ∧
    (after (step (amid .sync .none .txPre [.ioError]))).map (fun t => t.responses) = some ([] ++ [⟨0x00000009, []⟩]) ∧
    (0x00000009 : BitVec 32) ≠ 0 := by decide

/-- A step that writes a new outcome over an old one, one that does not, and a reset. -/
theorem test_witness_OutcomeIsNotReadBack :
    (after (step { offered [cmdClose] linked with result := 0x11, rdata := [0x01], responses := [⟨0x11, [0x01]⟩] })).map
      (fun t => (t.result, t.rdata, t.responses)) = some (0, [], [⟨0x11, [0x01]⟩, ⟨0, []⟩]) ∧
    (after (step { offered [bareCommand 6] linked with result := 0x11 })).map (fun t => (t.result, t.refused)) =
      some (0x11, true) ∧
    (after (step { linked with result := 0x11, refused := true, resetReq := true })).map
      (fun t => (t.result, t.refused)) = some (0, false) := by decide

theorem test_witness_ExchangesTerminate :
    Inv (amid .write .regs .txPre (List.replicate 8 (.ok []))) ∧
    (amid .write .regs .txPre (List.replicate 8 (.ok []))).phase ≠ .idle ∧
    (amid .write .regs .txPre (List.replicate 8 (.ok []))).resetReq = false ∧
    8 ≤ (amid .write .regs .txPre (List.replicate 8 (.ok []))).env.script.length ∧
    ∀ o ∈ (amid .write .regs .txPre (List.replicate 8 (.ok []))).env.script.take 8, ∃ a, o = some a ∧ a ≠ .silent := by
  refine ⟨by decide, by decide, by decide, by decide, ?_⟩
  intro o ho
  have : o = some (.ok []) := by
    simpa [amid, scripted] using ho
  exact ⟨_, this, by decide⟩

theorem test_witness_UnansweredPrimitiveHangs :
    Inv (amid .sync .none .rxAck [.silent, .silent]) ∧ (amid .sync .none .rxAck [.silent, .silent]).phase ≠ .idle ∧
    (amid .sync .none .rxAck [.silent, .silent]).env.script = List.replicate 2 (some .silent) ++ [] := by decide

theorem test_witness_PreambleStep :
    encodeBody .cmdSync = some [0x00] ∧ (amid .sync .none .txPre [.ok []]).fault = false ∧
    (amid .sync .none .txPre [.ok []]).phase = .txPre ∧
    (amid .sync .none .txPre [.ok []]).env.answer (.txWrite [0x55, 0xAA]) = .ok [] ∧
    (amid .sync .none .txPre [.ioError]).env.answer (.txWrite [0x55, 0xAA]) = .ioError := by decide

theorem test_witness_AckStep :
    encodeBody .cmdExec = some [0x05] ∧ (amid .exec .exec .rxAck []).phase = .rxAck ∧
    (amid .exec .exec .rxAck [.ok [0xCC]]).env.answer (.rxRead 1) = .ok [0xCC] ∧
    (amid .exec .exec .rxAck [.ok [0x00]]).env.answer (.rxRead 1) = .ok [0x00] ∧ (0x00 : Byte) ≠ 0xCC ∧
    (amid .exec .exec .rxAck [.ok []]).env.answer (.rxRead 1) = .ok [] ∧
    (amid .exec .exec .rxAck [.ioError]).env.answer (.rxRead 1) = .ioError := by decide

theorem test_witness_BodyStep :
    encodeBody .cmdSync = some [0x00] ∧ (amid .sync .none .txBody []).phase = .txBody ∧
    (amid .sync .none .txBody [.ok []]).env.answer (.txWrite [0x00]) = .ok [] ∧ responseLength .cmdSync ≠ 0 ∧
    (amid .sync .none .txBody [.ioError]).env.answer (.txWrite [0x00]) = .ioError := by decide

theorem test_witness_ShortResponseFails :
    (encodeBody (.cmdReadMem 0x2000 5)).isSome = true ∧ (amid .read .none .rxResp []).phase = .rxResp ∧
    (amid .read .none .rxResp [.ok [0x11]]).env.answer (.rxRead (responseLength (.cmdReadMem 0x2000 5))) = .ok [0x11] ∧
    ([0x11] : Bytes).length < responseLength (.cmdReadMem 0x2000 5) ∧
    (amid .read .none .rxResp [.ioError]).env.answer (.rxRead (responseLength (.cmdReadMem 0x2000 5))) = .ioError := by
  decide

theorem test_witness_CmdSyncCompletes :
    (amid .sync .none .rxResp [.ok [0x00]]).fault = false ∧ (amid .sync .none .rxResp [.ok [0x00]]).phase = .rxResp ∧
    (amid .sync .none .rxResp [.ok [0x00]]).env.answer (.rxRead 1) = .ok [0x00] ∧
    (amid .sync .none .rxResp [.ok [0x01]]).env.answer (.rxRead 1) = .ok [0x01] ∧ (0x01 : Byte) ≠ 0x00 := by decide

theorem test_witness_CmdReadMemCompletes :
    (2 : Half) ≠ 0 ∧ (amid .read .none .rxResp [.ok [0xAB, 0xCD]]).phase = .rxResp ∧
    (amid .read .none .rxResp [.ok [0xAB, 0xCD]]).env.answer (.rxRead (2 : Half).toNat) = .ok [0xAB, 0xCD] ∧
    ([0xAB, 0xCD] : Bytes).length = (2 : Half).toNat ∧ (amid .read .none .txBody [.ok []]).phase = .txBody ∧
    (amid .read .none .txBody [.ok []]).env.answer (.txWrite ([0x03] ++ addr24 0x2000 ++ [0x00, 0x00])) = .ok [] := by
  decide

theorem test_witness_CmdWriteMemCompletes :
    (amid .write .regs .txBody [.ok []]).fault = false ∧ (amid .write .regs .txBody [.ok []]).phase = .txBody ∧
    (amid .write .regs .txBody [.ok []]).runseq = .regs ∧ (amid .write .none .txBody [.ok []]).runseq ≠ .regs ∧
    (amid .write .none .txBody [.ok []]).env.answer
      (.txWrite ([0x02] ++ addr24 0x3000 ++ le16 (BitVec.ofNat 16 ([0x01] : Bytes).length) ++ [0x01])) = .ok [] := by
  decide

theorem test_witness_CmdExecCompletes :
    (amid .exec .exec .txBody [.ok []]).fault = false ∧ (amid .exec .exec .txBody [.ok []]).phase = .txBody ∧
    (amid .exec .exec .txBody [.ok []]).env.answer (.txWrite [0x05]) = .ok [] := by decide

theorem test_witness_WireCommandFrame :
    encodeBody .cmdSync = some [0x00] ∧ (amid .sync .none .txPre [.ok []]).phase ≠ .idle ∧
    (after (exec .cmdSync (amid .sync .none .txPre [.ok []]))).map (fun t => t.phase) = some .rxAck := by decide

/-- A peer that waits for the body with a stale byte queued, and the last byte of the address space. -/
theorem test_witness_WireCommandMemoryFrame :
    (Instr.cmdWriteMem 0xFFFFFF [0x5A]).wf = true ∧ (encodeBody (.cmdWriteMem 0xFFFFFF [0x5A])).isSome = true ∧
    (0xFFFFFF : Addr).toNat + ([0x5A] : Bytes).length ≤ 16777216 ∧
    (after (exec (.cmdWriteMem 0xFFFFFF [0x5A])
      (withPeer { loadedPeer with q := [0x00], expectBody := true } (amid .write .none .txBody [])))).map
        (fun t => (t.env.peer.mem.read 0xFFFFFF, t.env.peer.mem.read 0xFFFFFE, t.env.peer.mem.read 0x1000)) =
          some (0x5A, 0x00, 0x01) ∧
    Peer.inbuf { loadedPeer with q := [0x00], expectBody := true } = [] ∧
    PeerAtFrameStart (withPeer loadedPeer (amid .write .none .txPre [])) ∧
    (amid .read .none .rxAck []).env.board = .unconstrained := by decide

theorem test_witness_HostOpenCompletes :
    (scripted [.ok []] State.reset).fault = false ∧ (scripted [.ok []] State.reset).phase = .idle ∧
    (scripted [.ok []] State.reset).runseq = .none ∧ (scripted [.ok []] State.reset).conn = .disconnected ∧
    (scripted [.ok []] State.reset).env.answer (.tOpen 5 57600 .rtsCts) = .ok [] ∧
    (scripted [.ioError] State.reset).env.answer (.tOpen 5 57600 .rtsCts) = .ioError := by decide

theorem test_witness_connected_and_idle :
    linked.fault = false ∧ linked.phase = .idle ∧ linked.conn = .connected ∧
    ([0x01] : Bytes).length ≤ 65535 := by decide

theorem test_witness_disconnected_and_idle :
    State.reset.fault = false ∧ State.reset.phase = .idle ∧ State.reset.conn = .disconnected ∧
    ([] : Bytes).length ≤ 65535 ∧
    Instr.hostSynchronize ∈
      [Instr.hostSynchronize, .hostReadMemory 0 0, .hostWriteMemory 0 [], .hostRunProgram 0] ∧
    faulted.fault = true ∧ faulted.resetReq = false ∧
    State.resetReq { faulted with resetReq := true } = true := by decide

theorem test_witness_OversizeWriteIsRefused :
    65535 < (List.replicate 65536 (0 : Byte)).length ∧ State.reset.phase = .idle ∧ linked.phase = .idle := by
  refine ⟨?_, rfl, rfl⟩
  simp only [List.length_replicate]
  decide

theorem test_witness_ReservedCodesAreRefused :
    exec .hostReserved6 (offered [bareCommand 6, cmdClose] linked) =
      .next { offered [cmdClose] linked with refused := true } ∧
    (offered [bareCommand 6, cmdClose] linked).resetReq = false := ⟨rfl, rfl⟩

theorem test_witness_BusyPortHolds :
    encode .hostClose = .port (bareCommand 1) ∧ (amid .sync .none .rxAck []).fault = false ∧
    (amid .sync .none .rxAck []).phase ≠ .idle := by decide

theorem test_witness_FaultedBlockRunsNothing :
    faulted.fault = true ∧ encode (.hostOpen 5) = .port { bareCommand 0 with port := 5 } ∧
    encodeBody .cmdSync = some [0x00] := by decide

theorem test_witness_UndefinedOpcodesHaveNoMeaning :
    undefinedRow 0x01 = some .reserved01 ∧ undefinedRow 0x04 = some .undefined04 ∧
    undefinedRow 0x07 = some (.undefined0607 1) ∧ undefinedRow 0x0F = some (.undefined080F 7) ∧
    undefinedRow 0x10 = some (.undefined101F 0) ∧ undefinedRow 0x3F = some (.undefined203F 31) ∧
    undefinedRow 0x40 = some (.undefined407F 0) ∧ undefinedRow 0xFF = some (.undefined80FF 127) ∧
    Peer.expectBody { loadedPeer with expectBody := true } = true ∧
    Peer.inbuf { loadedPeer with expectBody := true } = [] := by decide

theorem test_witness_HostOperationFrame :
    encode (.hostReadMemory 0x2000 5) = .port { bareCommand 3 with addr := 0x2000, count := 5 } ∧
    (after (exec (.hostReadMemory 0x2000 5) linked)).map (fun t => t.addr) = some 0x2000 := by decide

theorem test_witness_SynchronizeSucceedsExactly :
    Ready cmdSynchronize [cmdClose]
      (scripted [.ok [], .ok [0xCC], .ok [], .ok [0x00]] (offered [cmdSynchronize, cmdClose] linked)) ∧
    Scripted [.ok [], .ok [0xCC], .ok [], .ok [0x00]] []
      (scripted [.ok [], .ok [0xCC], .ok [], .ok [0x00]] (offered [cmdSynchronize, cmdClose] linked)) := by decide

theorem test_witness_SyncIsMemoryless :
    Inv (scripted [.ok [], .ok [0xCD], .ioError, .ok []] (offered [cmdSynchronize] linked)) ∧
    Ready cmdSynchronize [] (scripted [.ok [], .ok [0xCD], .ioError, .ok []] (offered [cmdSynchronize] linked)) ∧
    Scripted [.ok [], .ok [0xCD], .ioError, .ok []] []
      (scripted [.ok [], .ok [0xCD], .ioError, .ok []] (offered [cmdSynchronize] linked)) ∧
    (Answer.ioError ≠ .silent ∧ Answer.ok [] ≠ .silent) := by decide

theorem test_witness_ReadMemoryRun :
    Ready (cmdReadMemory 0x1000 3) []
      (scripted [.ok [], .ok [0xCC], .ok [], .ok [0x01, 0x02, 0x03]] (offered [cmdReadMemory 0x1000 3] linked)) ∧
    (3 : Half) ≠ 0 ∧ ([0x01, 0x02, 0x03] : Bytes).length = (3 : Half).toNat ∧
    ([0x01] : Bytes).length < (3 : Half).toNat ∧
    Scripted [.ok [], .ok [0xCC], .ok []] []
      (scripted [.ok [], .ok [0xCC], .ok []] (offered [cmdReadMemory 0x1000 0] linked)) := by decide

theorem test_witness_WriteMemoryRun :
    Ready (cmdWriteMemory 0x1000 [0x01]) []
      (scripted [.ok [], .ok [0xCC], .ok []] (offered [cmdWriteMemory 0x1000 [0x01]] linked)) ∧
    ([0x01] : Bytes).length ≤ 65535 ∧
    Scripted [.ok [], .ok [0xCC], .ok []] []
      (scripted [.ok [], .ok [0xCC], .ok []] (offered [cmdWriteMemory 0x1000 [0x01]] linked)) := by decide

theorem test_witness_RunProgramRun :
    Ready (cmdRunProgram 0x8000) []
      (scripted [.ok [], .ok [0xCC], .ok [], .ok [], .ok [0x33]] (offered [cmdRunProgram 0x8000] linked)) ∧
    (0x33 : Byte) ≠ 0xCC ∧
    Scripted [.ok [], .ok [0xCC], .ok [], .ok [], .ok [0x33]] []
      (scripted [.ok [], .ok [0xCC], .ok [], .ok [], .ok [0x33]] (offered [cmdRunProgram 0x8000] linked)) ∧
    Scripted [.ok [], .ok [0x33]] [] (scripted [.ok [], .ok [0x33]] (offered [cmdRunProgram 0x8000] linked)) ∧
    Scripted [.ok [], .ok [0xCC], .ok [], .ok [], .ok [0xCC], .ok []] []
      (scripted [.ok [], .ok [0xCC], .ok [], .ok [], .ok [0xCC], .ok []] (offered [cmdRunProgram 0x8000] linked)) := by
  decide

theorem test_witness_PeerServesFrames :
    loadedPeer.mem.wf = true ∧ loadedPeer.inbuf = [] ∧ loadedPeer.expectBody = false ∧
    Peer.expectBody { loadedPeer with expectBody := true } = true ∧
    (0xFFFFFF : Addr).toNat + (1 : Half).toNat ≤ 16777216 ∧ ¬ (0xFFFFFF : Addr).toNat + (2 : Half).toNat ≤ 16777216 ∧
    (0xFFFFFE : Addr).toNat + ([0x01, 0x02] : Bytes).length ≤ 16777216 := by decide

theorem test_witness_WriteThenReadRoundTrip :
    ([0x01, 0x02] : Bytes).length ≤ 65535 ∧ (0xFFFFFE : Addr).toNat + ([0x01, 0x02] : Bytes).length ≤ 16777216 ∧
    Ready (cmdWriteMemory 0xFFFFFE [0x01, 0x02]) [cmdReadMemory 0xFFFFFE (BitVec.ofNat 16 2)]
      (withPeer loadedPeer (offered [cmdWriteMemory 0xFFFFFE [0x01, 0x02], cmdReadMemory 0xFFFFFE 2] linked)) ∧
    AgainstPeer (withPeer loadedPeer linked) ∧ PeerAtFrameStart (withPeer loadedPeer linked) ∧
    MemoryInv (withPeer loadedPeer linked) ∧ linked.env.board = .unconstrained := by decide

theorem test_witness_FailedWriteLeavesOldOrNew :
    (0xFFFFFF : Addr).toNat + ([0x5A] : Bytes).length ≤ 16777216 ∧
    Peer.inbuf { loadedPeer with q := [0x00], expectBody := true } = [] ∧
    Peer.expectBody { loadedPeer with q := [0x00], expectBody := true } = true ∧
    MemoryInv (withPeer { loadedPeer with q := [0x00], expectBody := true } (amid .write .none .txBody [.ioError])) ∧
    (withPeer { loadedPeer with q := [0x00], expectBody := true } (amid .write .none .txBody [.ioError])).env.answer
      (.txWrite ([0x02] ++ addr24 0xFFFFFF ++ le16 (BitVec.ofNat 16 ([0x5A] : Bytes).length) ++ [0x5A])) = .ioError := by
  decide

/-- After an Execute: a peer whose answers are unconstrained waits for the body. -/
theorem test_witness_FailedWriteLeavesOldOrNew_lost :
    let s := withPeer { loadedPeer with expectBody := true, executed := true, lost := true }
      (amid .write .none .txBody [.ioError])
    s.fault = false ∧ s.phase = .txBody ∧ s.env.board = .reference ∧ s.env.peer.inbuf = [] ∧
    s.env.peer.expectBody = true ∧ s.env.peer.lost = true ∧ MemoryInv s ∧
    s.env.answer (.txWrite ([0x02] ++ addr24 0x1000 ++ le16 (BitVec.ofNat 16 ([0x5A] : Bytes).length) ++ [0x5A])) =
      .ioError := by decide

/-- A range that passes 0xFFFFFF: its first byte, and no other, lies inside the address space. -/
theorem test_witness_FailedWriteLeavesOldOrNew_past_the_end :
    (0xFFFFFF : Addr).toNat + 0 < 16777216 ∧ ¬ (0xFFFFFF : Addr).toNat + 1 < 16777216 ∧
    (withPeer { loadedPeer with expectBody := true } (amid .write .none .txBody [.ioError])).env.answer
      (.txWrite ([0x02] ++ addr24 0xFFFFFF ++ le16 (BitVec.ofNat 16 ([0x5A, 0x5B] : Bytes).length) ++ [0x5A, 0x5B])) =
        .ioError := by decide

/-- R56: with every stored byte new, only the byte inside the address space takes its new value; with none, none does. -/
theorem test_failed_write_past_the_end :
    ({ loadedPeer with expectBody := true }.receiveFailed 3 (fun _ => true) (fun _ => ⟨[], [(0xFFFFFF, 0x77)], 0⟩)
      [0x02, 0xFF, 0xFF, 0xFF, 0x02, 0x00, 0x5A, 0x5B]).mem = loadedPeer.mem ++ [(0xFFFFFF, 0x5A)] ∧
    ({ loadedPeer with expectBody := true }.receiveFailed 8 (fun _ => false) (fun _ => ⟨[], [(0xFFFFFF, 0x77)], 0⟩)
      [0x02, 0xFF, 0xFF, 0xFF, 0x02, 0x00, 0x5A, 0x5B]).mem = loadedPeer.mem := by decide

/-- R65, D30: a peer whose `INBUF` holds an unfinished write stores what completes it, and nothing before; a preamble that
failed with no byte delivered changes nothing, and one delivered whole is its two data bytes. -/
theorem test_failed_preamble_into_unfinished_write :
    let p := { loadedPeer with inbuf := [0x02, 0x00, 0x10, 0x00, 0x02, 0x00], expectBody := true }
    (p.receiveFailed 0 (fun _ => true) nothingOpen [0x55, 0xAA]).mem = loadedPeer.mem ∧
    (p.receiveFailed 1 (fun _ => true) nothingOpen [0x55, 0xAA]).mem = loadedPeer.mem ∧
    (p.receiveFailed 2 (fun _ => false) nothingOpen [0x55, 0xAA]).mem = [(0x1000, 0x55), (0x1001, 0xAA), (0x1002, 0x03)] := by
  decide

/-- R35, D33: the answer to a read past the end stands behind the stale bytes, which are read first and are then gone; the
peer goes on with the next frame. -/
theorem test_peer_goes_on_past_the_end :
    let p := { loadedPeer with q := [0x00, 0xCC], expectBody := true }.receive (fun _ => ⟨[0x77], [], 0⟩)
      [0x03, 0xFF, 0xFF, 0xFF, 0x02, 0x00]
    p.lost = false ∧ p.q = [0x00, 0xCC, 0x77] ∧
    ((withPeer p linked).env.answer (.rxRead 2)) = .ok [0x00, 0xCC] ∧
    ((withPeer p linked).env.after (.rxRead 2)).peer.q = [0x77] ∧
    ((p.receive nothingOpen [0x55, 0xAA]).receive nothingOpen [0x02, 0x00, 0x20, 0x00, 0x01, 0x00, 0x5A]).mem.read 0x2000 =
      0x5A := by decide

/-- R65: after an `EXEC` the fixture still parses, stores and records; misframed bytes stop it for good. -/
theorem test_peer_goes_on_after_exec :
    let p := { loadedPeer with expectBody := true }.receive nothingOpen [0x05]
    let w := (p.receive nothingOpen [0x55, 0xAA]).receive nothingOpen [0x02, 0x00, 0x7E, 0x00, 0x01, 0x00, 0x5A]
    let x := (w.receive nothingOpen [0x55, 0xAA]).receive nothingOpen [0x05]
    p.lost = true ∧ p.record = some (List.replicate 16 0) ∧ w.lost = true ∧ w.mem.read 0x7E00 = 0x5A ∧
    x.record = some (0x5A :: List.replicate 15 0) ∧
    (((loadedPeer.receive nothingOpen [0x00, 0x00]).receive nothingOpen [0x55, 0xAA]).inbuf,
      (loadedPeer.receive nothingOpen [0x00, 0x00]).lost) = ([0x00, 0x00, 0x55, 0xAA], true) := by decide

/-- R163: a successful `Execute` whose `05` falls into an unfinished body still frees every later answer. -/
theorem test_execute_into_unfinished_body :
    let s := withPeer { loadedPeer with inbuf := [0x02, 0x00, 0x10, 0x00, 0x02, 0x00], expectBody := true }
      (amid .exec .exec .txBody [.ok []])
    (after (exec .cmdExec s)).map (fun t => (t.result, t.env.peer.lost, t.env.peer.executed, t.env.peer.inbuf.length)) =
      some (0, true, false, 7) := by decide

theorem test_witness_ChunksCoverImage :
    (chunks 2 0xFFFFFE [0x5A, 0x5B])[0]? = some (0xFFFFFE, [0x5A, 0x5B]) ∧
    (0xFFFFFE : Addr).toNat + ([0x5A, 0x5B] : Bytes).length ≤ 16777216 := by decide

end Sys2Proof.Tests
end

section
/-! Proofs about single steps: which instruction a step runs, and how an exchange step that fails ends its operation. -/

namespace Sys2Proof.Machine

open Sys2Proof.Safety

/-! ### What a step runs -/

theorem step_of_fetch_run {s : State} {i : Instr} (h : s.fetch = .run i) : step s = exec i s := by
  simp only [step, h]

theorem step_of_fetch_wait {s : State} (h : s.fetch = .wait) : step s = .next s := by
  simp only [step, h]

/-- Settles O18: each of the three situations fixes what is fetched. -/
theorem stepRunsNextInstruction : Obligations.StepRunsNextInstruction := by
  intro s hr hf
  refine ⟨fun c rest hp hc => ?_, fun hp hc => ?_, fun i hp hi => ?_⟩
  · exact step_of_fetch_run (fetch_command hr hf hp hc)
  · exact step_of_fetch_wait (fetch_wait hr hf hp hc)
  · exact step_of_fetch_run (fetch_inFlight hr hf hp hi)

/-! ### The `RESULT` word as a sum of its fields -/

theorem toNat_append_eq_add {v w : Nat} (x : BitVec v) (y : BitVec w) :
    (x ++ y).toNat = y.toNat + 2 ^ w * x.toNat := by
  rw [BitVec.toNat_append, ← Nat.shiftLeft_add_eq_or_of_lt y.isLt, Nat.shiftLeft_eq]
  ring

/-- The numeric value R28 gives `RESULT`. -/
theorem resultWord_toNat (kind : BitVec 3) (cause : BitVec 2) (stage : Bool) (b : Byte) (n : Half) :
    (resultWord kind cause stage b n).toNat =
      kind.toNat + 8 * cause.toNat + 32 * stage.toNat + 256 * b.toNat + 65536 * n.toNat := by
  have hz : (0 : BitVec 2).toNat = 0 := rfl
  simp only [resultWord, toNat_append_eq_add, BitVec.toNat_ofBool, hz]
  omega

/-- The `RESULT` word in a state is the sum of its fields, each in place. -/
theorem resultWord_eq_sum (kind : BitVec 3) (cause : BitVec 2) (s : State) (b : Byte) (n : Half) :
    resultWord kind cause (decide (s.runseq = .exec)) b n =
      kind.setWidth 32 + (cause.setWidth 32 <<< 3) + stageBit s + gotByteField b + gotCountField n.toNat := by
  have hstage : (stageBit s).toNat = 32 * (decide (s.runseq = .exec)).toNat := by
    by_cases h : s.runseq = .exec <;> simp [stageBit, h]
  apply BitVec.eq_of_toNat_eq
  rw [resultWord_toNat]
  simp only [BitVec.toNat_add, hstage, gotByteField, gotCountField, BitVec.toNat_shiftLeft, BitVec.toNat_setWidth,
    BitVec.toNat_ofNat, Nat.shiftLeft_eq]
  have := (decide (s.runseq = .exec)).toNat_le
  omega

/-- `GOT_COUNT` has 16 bits: a larger count is cut to them. -/
theorem gotCountField_toNat_ofNat (n : Nat) : gotCountField (BitVec.ofNat 16 n).toNat = gotCountField n := by
  apply BitVec.eq_of_toNat_eq
  simp only [gotCountField, BitVec.toNat_shiftLeft, BitVec.toNat_ofNat, Nat.shiftLeft_eq]
  omega

theorem word_readFailed (s : State) :
    (OpError.transport .readFailed).word (decide (s.runseq = .exec)) = 0x00000011 + stageBit s := by
  simp [OpError.word, resultWord_eq_sum, TransportCause.code, gotByteField]

theorem word_shortResponse (i : Instr) (n : Nat) (s : State) :
    (OpError.protocol (decide (i = .cmdSync)) (.shortResponse n)).word (decide (s.runseq = .exec)) =
      failureKind i + 0x00000018 + stageBit s + gotCountField n := by
  simp only [OpError.word, resultWord_eq_sum, ProtocolCause.code, ProtocolCause.gotByte, ProtocolCause.gotCount,
    gotCountField_toNat_ofNat]
  by_cases h : i = .cmdSync <;> simp [failureKind, gotByteField, h]

/-! ### One primitive, and the end of an operation -/

/-- Issuing a primitive that is answered changes nothing but the port's history and what lies behind the port. -/
theorem afterPrimitive_issue {s : State} {p : Prim} {a : Answer} (ha : s.env.answer p = a) (hs : a ≠ .silent) :
    AfterPrimitive p a s (s.issue p) := by
  subst ha
  simp [AfterPrimitive, KeepsConnection, KeepsOperands, KeepsSticky, Prim.events_answered hs]

/-- Ending the operation touches nothing that `AfterPrimitive` speaks of. -/
theorem afterPrimitive_finish {p : Prim} {a : Answer} {s t : State} (h : AfterPrimitive p a s t) (r : BitVec 32)
    (d : Bytes) : AfterPrimitive p a s (t.finish r d) := h

theorem endedWith_issue_finish (p : Prim) (r : BitVec 32) (d : Bytes) (s : State) :
    EndedWith r d s ((s.issue p).finish r d) :=
  ⟨rfl, rfl, rfl, rfl, rfl, rfl⟩

/-! ### An exchange step that fails -/

/-- Whatever goes wrong in a phase is raised, once the phase's primitive is issued (R121, R207). -/
theorem State.exchange_of_phaseError {i : Instr} {isSync : Bool} (start : State → State)
    (done : Bytes → State → State) {s : State} {p : Phase} {a : Answer} {e : OpError} (hp : s.phase = p)
    (ha : s.env.answer (phasePrim i p) = a) (he : PhaseError i isSync p a e) :
    s.exchange i isSync start done = (s.issue (phasePrim i p)).raise e := by
  obtain ⟨rfl, rfl, rfl⟩ | ⟨rfl, rfl, rfl⟩ | ⟨rfl, rfl, rfl⟩ | ⟨b, rest, rfl, rfl, hb, rfl⟩ | ⟨rfl, rfl, rfl⟩ |
    ⟨rfl, rfl, rfl⟩ | ⟨d, rfl, rfl, hd, rfl⟩ := he <;> simp only [phasePrim] at ha ⊢
  · simp only [State.exchange, hp, State.sendPreamble, ha]
  · simp only [State.exchange, hp, State.readAck, ha]
  · simp only [State.exchange, hp, State.readAck, ha]
  · simp only [State.exchange, hp, State.readAck, ha, if_neg hb]
  · simp only [State.exchange, hp, State.sendBody, ha]
  · simp only [State.exchange, hp, State.readResponse, ha]
  · simp only [State.exchange, hp, State.readResponse, ha, if_pos hd]

/-- A wire command whose step fails ends the operation with the error's word and no data, having issued the one primitive
of its phase. -/
theorem exec_of_phaseError {i : Instr} {body : Bytes} {s : State} {p : Phase} {a : Answer} {e : OpError}
    (hb : encodeBody i = some body) (hf : s.fault = false) (hp : s.phase = p)
    (ha : s.env.answer (phasePrim i p) = a) (he : PhaseError i (decide (i = .cmdSync)) p a e) :
    ∃ t, exec i s = .next t ∧ EndedWith (e.word (decide (s.runseq = .exec))) [] s t ∧
      AfterPrimitive (phasePrim i p) a s t := by
  have hs : a ≠ .silent := by
    rintro rfl
    simp [PhaseError] at he
  refine ⟨_, ?_, endedWith_issue_finish (phasePrim i p) _ [] s, afterPrimitive_finish (afterPrimitive_issue ha hs) _ _⟩
  rw [exec_wire hb, act_ok hf, State.exchange_of_phaseError _ _ hp ha he]
  rfl

/-- Settles O32: a short answer and an I/O error are the two errors of `RX_RESP`. -/
theorem shortResponseFails : Obligations.ShortResponseFails := by
  refine ⟨fun i body d s hb hf hp => ⟨fun ha hd => ?_, fun ha => ?_⟩, fun _ _ _ => Env.answer_rxRead_length⟩
  · have he : PhaseError i (decide (i = .cmdSync)) .rxResp (.ok d)
        (.protocol (decide (i = .cmdSync)) (.shortResponse d.length)) := by simp [PhaseError, hd]
    rw [← word_shortResponse]
    exact exec_of_phaseError hb hf hp ha he
  · have he : PhaseError i (decide (i = .cmdSync)) .rxResp .ioError (.transport .readFailed) := by simp [PhaseError]
    rw [← word_readFailed]
    exact exec_of_phaseError hb hf hp ha he

end Sys2Proof.Machine
end

section
/-! What a step can do, as named moves: one inductive proposition for the command-port operations, one for the wire
commands, one for the step. A proof about steps splits along them. -/

namespace Sys2Proof.Machine

open Sys2Proof.Safety

/-! ### The moves of the command port -/

/-- An operation that R206 has refused: a reserved code, an `open` while `CONNECTED`, an oversize write. -/
abbrev Refuses (i : Instr) (s : State) : Prop :=
  i = .hostReserved6 ∨ i = .hostReserved7 ∨ (∃ p, i = .hostOpen p ∧ s.conn = .connected) ∨
    ∃ a d, i = .hostWriteMemory a d ∧ 65535 < d.length

/-- The exchange operations, each with how it latches its operands and how its first exchange begins (R26, R121). -/
inductive Starts : Instr → (State → State) → (State → State) → Prop
  | synchronize : Starts .hostSynchronize id (State.startExchange .sync)
  | readMemory (a : Addr) (n : Half) :
      Starts (.hostReadMemory a n) (State.latchRead a n) (State.startExchange .read)
  | writeMemory (a : Addr) (d : Bytes) (hd : d.length ≤ Config.maxXfer) :
      Starts (.hostWriteMemory a d) (State.latchWrite a d) (State.startExchange .write)
  | runProgram (v : Half) :
      Starts (.hostRunProgram v) (State.latchStart v) (fun s => { s with runseq := .regs }.startExchange .write)

/-- What an accepted command-port operation does at `IDLE`. -/
inductive HostMove (i : Instr) (s : State) : State → Prop
  | refuse (hi : Refuses i s) : HostMove i s s.refuse
  | fault (hi : i = .hostClose) (hc : s.conn = .disconnected) : HostMove i s s.setFault
  | close (hi : i = .hostClose) (hc : s.conn = .connected) : HostMove i s s.closePort
  | opened (p : PortId) (x : Bytes) (hi : i = .hostOpen p) (hc : s.conn = .disconnected)
      (ha : s.env.answer (.tOpen p Config.baud Config.flow) = .ok x) :
      HostMove i s ({ s.takeCommand.issue (.tOpen p Config.baud Config.flow) with
        portId := p, thandle := some { port := p }, conn := .connected }.complete [])
  | openFailed (p : PortId) (hi : i = .hostOpen p) (hc : s.conn = .disconnected)
      (ha : s.env.answer (.tOpen p Config.baud Config.flow) = .ioError) :
      HostMove i s ((s.takeCommand.issue (.tOpen p Config.baud Config.flow)).raise (.transport .openFailed))
  | openPending (p : PortId) (hi : i = .hostOpen p) (hc : s.conn = .disconnected)
      (ha : s.env.answer (.tOpen p Config.baud Config.flow) = .silent) :
      HostMove i s (s.issue (.tOpen p Config.baud Config.flow))
  | start {latch begin : State → State} (hi : Starts i latch begin) (hc : s.conn = .connected) :
      HostMove i s (begin (latch s.takeCommand))
  | notConnected {latch begin : State → State} (hi : Starts i latch begin) (hc : s.conn = .disconnected) :
      HostMove i s ((latch s.takeCommand).raise .notConnected)

theorem Conn.eq_disconnected_of_ne {c : Conn} (h : c ≠ .connected) : c = .disconnected := by
  cases c
  · rfl
  · exact absurd rfl h

theorem Starts.latch_conn {i : Instr} {latch begin : State → State} (h : Starts i latch begin) (s : State) :
    (latch s).conn = s.conn := by
  cases h <;> rfl

/-- Behind the gate of R103 an exchange operation starts its exchange or ends in `NOT_CONNECTED`. -/
theorem hostMove_of_starts {i : Instr} {latch begin : State → State} (h : Starts i latch begin) (s : State) :
    HostMove i s ((latch s.takeCommand).whenConnected begin) := by
  have hconn : (latch s.takeCommand).conn = s.conn := h.latch_conn _
  obtain ⟨hc, ht⟩ | ⟨hc, ht⟩ := State.whenConnected_cases begin (latch s.takeCommand) <;> rw [ht] <;>
    rw [hconn] at hc
  · exact .start h hc
  · exact .notConnected h (Conn.eq_disconnected_of_ne hc)

/-- A command-port operation leaves a `BUSY` block alone, or makes one of the moves. -/
theorem hostMove_of_exec {i : Instr} {c : Command} {s t : State} (he : encode i = .port c) (h : exec i s = .next t) :
    s.fault = false ∧ ((s.phase ≠ .idle ∧ t = s) ∨ (s.phase = .idle ∧ HostMove i s t)) := by
  obtain ⟨hf, hbusy | ⟨hp, hcases⟩⟩ := exec_host_next he h
  · exact ⟨hf, .inl hbusy⟩
  refine ⟨hf, .inr ⟨hp, ?_⟩⟩
  obtain ⟨p, rfl, ⟨hc, rfl⟩ | ⟨hc, rfl⟩⟩ | ⟨rfl, ⟨hc, rfl⟩ | ⟨hc, rfl⟩⟩ | ⟨rfl, rfl⟩ | ⟨a, n, rfl, rfl⟩ |
    ⟨a, d, rfl, ⟨hd, rfl⟩ | ⟨hd, rfl⟩⟩ | ⟨v, rfl, rfl⟩ | ⟨hi, rfl⟩ := hcases
  · exact .refuse (.inr (.inr (.inl ⟨p, rfl, hc⟩)))
  · have hc' := Conn.eq_disconnected_of_ne hc
    obtain ⟨x, ha, ht⟩ | ⟨ha, ht⟩ | ⟨ha, ht⟩ := State.openPort_cases p s <;> rw [ht]
    · exact .opened p x rfl hc' ha
    · exact .openFailed p rfl hc' ha
    · exact .openPending p rfl hc' ha
  · exact .close rfl hc
  · exact .fault rfl (Conn.eq_disconnected_of_ne hc)
  · exact hostMove_of_starts .synchronize s
  · exact hostMove_of_starts (.readMemory a n) s
  · exact hostMove_of_starts (.writeMemory a d hd) s
  · exact .refuse (.inr (.inr (.inr ⟨a, d, rfl, hd⟩)))
  · exact hostMove_of_starts (.runProgram v) s
  · exact .refuse (hi.elim .inl fun hi => .inr (.inl hi))

/-! ### The moves of an exchange -/

/-- The response data of a wire command: only a read returns its response. -/
def responseData : Instr → Bytes → Bytes
  | .cmdReadMem _ _, d => d
  | _, _ => []

/-- What a wire command does in a phase of its exchange (R121). -/
inductive WireMove (i : Instr) (s : State) : State → Prop
  | pending (ha : s.env.answer (phasePrim i s.phase) = .silent) : WireMove i s (s.issue (phasePrim i s.phase))
  | advance (ha : PhaseAdvance i s.phase (s.env.answer (phasePrim i s.phase))) :
      WireMove i s { s.issue (phasePrim i s.phase) with phase := nextPhase s.phase }
  | fail (e : OpError) (he : PhaseError i (decide (i = .cmdSync)) s.phase (s.env.answer (phasePrim i s.phase)) e) :
      WireMove i s ((s.issue (phasePrim i s.phase)).raise e)
  | badStatus (b : Byte) (hi : i = .cmdSync) (hb : b ≠ syncOk) :
      WireMove i s ((s.issue (phasePrim i s.phase)).raise (.protocol true (.badStatus b)))
  | complete (d : Bytes) (ha : PhaseDone i s.phase (s.env.answer (phasePrim i s.phase)) d) :
      WireMove i s ((s.issue (phasePrim i s.phase)).complete (responseData i d))
  | execute (d : Bytes) (ha : PhaseDone i s.phase (s.env.answer (phasePrim i s.phase)) d) (hr : s.runseq = .regs) :
      WireMove i s ({ s.issue (phasePrim i s.phase) with runseq := .exec }.startExchange .exec)

theorem wireMove_of_exchange {i : Instr} {body : Bytes} (hb : encodeBody i = some body) {s : State}
    (hp : s.phase ≠ .idle) : WireMove i s (s.exchange i (decide (i = .cmdSync)) (startOf i) (doneOf i)) := by
  obtain ⟨ha, ht⟩ | ⟨ha, ht⟩ | ⟨e, he, ht⟩ | ⟨d, hd, ht⟩ :=
    State.exchange_cases i (decide (i = .cmdSync)) (startOf i) (doneOf i) hp <;> rw [ht]
  · exact .pending ha
  · exact .advance ha
  · exact .fail e he
  · obtain hc | ⟨b, rest, hi, -, hne, hc⟩ | ⟨a, w, rfl, hr, hc⟩ := doneOf_cases hb d (s.issue (phasePrim i s.phase)) <;>
      rw [hc]
    · cases i <;> exact .complete d hd
    · exact .badStatus b hi hne
    · exact .execute d hd hr

theorem wireMove_of_exec {i : Instr} {body : Bytes} {s t : State} (hb : encodeBody i = some body)
    (hp : s.phase ≠ .idle) (h : exec i s = .next t) : s.fault = false ∧ WireMove i s t := by
  rw [exec_wire hb, act_next] at h
  exact ⟨h.1, h.2 ▸ wireMove_of_exchange hb hp⟩

/-! ### The moves of a step -/

/-- What a step outside reset does. -/
inductive StepMove (s : State) : State → Prop
  | wait (hp : s.phase = .idle) (hc : s.cmds = []) : StepMove s s
  | host {i : Instr} {t : State} (hp : s.phase = .idle) (hc : s.cmds ≠ []) (hi : s.fetch = .run i)
      (hm : HostMove i s t) : StepMove s t
  | wire {i : Instr} {t : State} (hp : s.phase ≠ .idle) (hi : s.inFlight = some i) (hfetch : s.fetch = .run i)
      (hm : WireMove i s t) : StepMove s t

theorem stepMove_of_step {s t : State} (hr : s.resetReq = false) (h : step s = .next t) :
    s.fault = false ∧ StepMove s t := by
  obtain ⟨hr', -⟩ | ⟨-, hf, hcases⟩ := step_cases h
  · rw [hr] at hr'
    cases hr'
  refine ⟨hf, ?_⟩
  obtain ⟨hp, hc, -, rfl⟩ | ⟨c, rest, hp, hc, hi, hx⟩ | ⟨i, body, hp, hi, hb, hfetch, rfl⟩ := hcases
  · exact .wait hp hc
  · obtain ⟨c', he⟩ := encode_decodeCommand c
    obtain ⟨-, ⟨hp', -⟩ | ⟨-, hm⟩⟩ := hostMove_of_exec he hx
    · exact absurd hp hp'
    · exact .host hp (by simp [hc]) hi hm
  · exact .wire hp hi hfetch (wireMove_of_exchange hb hp)

end Sys2Proof.Machine
end

section
/-! The encoding of every row decodes to the row's instruction, and the fields of the outcome and status words. -/

namespace Sys2Proof

/-! ### The encoding of every row -/

/-- A byte that selects an undefined row is `INVALID` to the body decoder (R75, R85). -/
theorem decodeBody_of_undefinedRow {op : Byte} {i : Instr} (h : undefinedRow op = some i) :
    decodeBody [op] = .invalid op := by
  have hall : ∀ op : Byte, undefinedRow op ≠ none → decodeBody [op] = .invalid op := by decide
  exact hall op (by simp [h])

/-- An undefined row's encoding is its opcode byte (log entry 36). -/
theorem decode_of_undefinedRow {op : Byte} {i : Instr} (h : undefinedRow op = some i) :
    decode (.body [op]) = .ok i := by
  simp [decode, decodeBody_of_undefinedRow h, h]

/-- The body decoder takes an encoded body whole (R85). -/
theorem decodeBody_encodeBody {i : Instr} {body : Bytes} (hw : i.wf = true) (hb : encodeBody i = some body) :
    decodeBody body = .command i body.length := by
  cases i <;> simp only [encodeBody, Option.some.injEq, reduceCtorEq] at hb <;> subst hb
  case cmdSync => rfl
  case cmdExec => rfl
  case cmdReadMem a c => simpa using decodeBody_read a c []
  case cmdWriteMem a d =>
    have hlen : ([opWrite] ++ addr24 a ++ le16 (BitVec.ofNat 16 d.length) ++ d).length = 6 + d.length := by
      simp
      omega
    rw [hlen]
    simpa using decodeBody_write a d [] (of_decide_eq_true hw)

theorem decode_of_decodeBody {body : Bytes} {i : Instr} (h : decodeBody body = .command i body.length) :
    decode (.body body) = .ok i := by
  simp [decode, h]

/-- Settles O4: a wire command's body is taken whole by the body decoder, an undefined opcode selects its row, and a
command-port tuple holds the operands its code uses. -/
theorem decodeInvertsEncode : Obligations.DecodeInvertsEncode := by
  intro i hw
  cases i with
  | cmdSync | cmdReadMem _ _ | cmdWriteMem _ _ | cmdExec => exact decode_of_decodeBody (decodeBody_encodeBody hw rfl)
  | reserved01 | undefined04 => exact decode_of_undefinedRow (by decide)
  | undefined0607 low | undefined080F low | undefined101F low | undefined203F low | undefined407F low
  | undefined80FF low => exact decode_of_undefinedRow (by revert low; decide)
  | _ => rfl

/-- Settles O10: each code selects its branch of the port's decoder. -/
theorem commandPortCodes : Obligations.CommandPortCodes := by
  intro p a c d v
  exact ⟨rfl, rfl, rfl, rfl, rfl, rfl, rfl, rfl⟩

end Sys2Proof

namespace Sys2Proof.Machine

open Sys2Proof.Safety

/-! ### The fields of the `RESULT` word -/

section

variable (kind : BitVec 3) (cause : BitVec 2) (stage : Bool) (b : Byte) (n : Half)

/-- A field of the `RESULT` word is a quotient and remainder of its numeric value. -/
theorem toNat_extractLsb'_resultWord (start len : Nat) :
    ((resultWord kind cause stage b n).extractLsb' start len).toNat =
      (kind.toNat + 8 * cause.toNat + 32 * stage.toNat + 256 * b.toNat + 65536 * n.toNat) / 2 ^ start % 2 ^ len := by
  rw [BitVec.extractLsb'_toNat, resultWord_toNat, Nat.shiftRight_eq_div_pow]

@[simp] theorem resultKind_resultWord : resultKind (resultWord kind cause stage b n) = kind := by
  apply BitVec.eq_of_toNat_eq
  rw [resultKind, toNat_extractLsb'_resultWord]
  omega

@[simp] theorem resultCause_resultWord : resultCause (resultWord kind cause stage b n) = cause := by
  apply BitVec.eq_of_toNat_eq
  rw [resultCause, toNat_extractLsb'_resultWord]
  omega

@[simp] theorem resultStage_resultWord : resultStage (resultWord kind cause stage b n) = stage := by
  rw [resultStage, BitVec.getLsbD, resultWord_toNat, Nat.testBit_eq_decide_div_mod_eq]
  cases stage <;> simp only [Bool.toNat_false, Bool.toNat_true, decide_eq_false_iff_not, decide_eq_true_eq] <;> omega

@[simp] theorem resultReserved_resultWord : resultReserved (resultWord kind cause stage b n) = 0 := by
  apply BitVec.eq_of_toNat_eq
  have hstage := stage.toNat_le
  have hz : (0 : BitVec 2).toNat = 0 := rfl
  rw [resultReserved, toNat_extractLsb'_resultWord, hz]
  omega

@[simp] theorem resultGotByte_resultWord : resultGotByte (resultWord kind cause stage b n) = b := by
  apply BitVec.eq_of_toNat_eq
  have hstage := stage.toNat_le
  rw [resultGotByte, toNat_extractLsb'_resultWord]
  omega

@[simp] theorem resultGotCount_resultWord : resultGotCount (resultWord kind cause stage b n) = n := by
  apply BitVec.eq_of_toNat_eq
  have hstage := stage.toNat_le
  rw [resultGotCount, toNat_extractLsb'_resultWord]
  omega

end

/-- Settles O15: the numeric value, and each field as a quotient and remainder of it. -/
theorem resultWordLayout : Obligations.ResultWordLayout := by
  intro kind cause stage b n
  exact ⟨resultWord_toNat kind cause stage b n, by simp⟩

end Sys2Proof.Machine
end

section
/-! The command port: the next state of each operation, and which registers an operation may change. -/

namespace Sys2Proof.Machine

open Sys2Proof.Safety

/-! ### Single operations -/

/-- A reset, and nothing else, moves a faulted block. -/
theorem step_of_fault {s : State} (hf : s.fault = true) (hr : s.resetReq = false) : step s = .fault .quiescent := by
  simp only [step, fetch_fault hr hf]

theorem step_of_resetReq {s : State} (hr : s.resetReq = true) : step s = .next s.hwReset := by
  simp only [step, fetch_reset hr]

theorem exec_host_idle {i : Instr} {c : Command} (he : encode i = .port c) {s : State} (hf : s.fault = false)
    (hp : s.phase = .idle) : exec i s = .next (hostBody i s) := by
  rw [exec_host he, accept_idle hf hp]

/-- An exchange operation stands behind the gate of R103, its operands latched. -/
theorem Starts.hostBody_eq {i : Instr} {latch begin : State → State} (h : Starts i latch begin) (s : State) :
    hostBody i s = (latch s.takeCommand).whenConnected begin := by
  cases h with
  | synchronize => rfl
  | readMemory a n => rfl
  | writeMemory a d hd => exact if_pos (decide_eq_true hd)
  | runProgram v => rfl

theorem Starts.encode_port {i : Instr} {latch begin : State → State} (h : Starts i latch begin) :
    ∃ c, encode i = .port c := by
  cases h <;> exact ⟨_, rfl⟩

/-- While `CONNECTED` an exchange operation latches its operands and starts its exchange. -/
theorem exec_of_starts {i : Instr} {latch begin : State → State} (h : Starts i latch begin) {s : State}
    (hf : s.fault = false) (hp : s.phase = .idle) (hc : s.conn = .connected) :
    exec i s = .next (begin (latch s.takeCommand)) := by
  obtain ⟨c, he⟩ := h.encode_port
  have hc' : (latch s.takeCommand).conn = .connected := (h.latch_conn s.takeCommand).trans hc
  rw [exec_host_idle he hf hp, h.hostBody_eq, State.whenConnected, if_pos hc']

/-- Settles O41: the four exchange operations of a connected block. -/
theorem exchangeOperationsStart : Obligations.ExchangeOperationsStart := by
  intro s hf hp hc
  exact ⟨exec_of_starts .synchronize hf hp hc, fun a n => exec_of_starts (.readMemory a n) hf hp hc,
    fun a d hd => exec_of_starts (.writeMemory a d hd) hf hp hc, fun v => exec_of_starts (.runProgram v) hf hp hc⟩

/-! ### The bits of `STATUS` -/

theorem status_bits (s : State) :
    s.status.getLsbD 0 = decide (s.conn = .connected) ∧ s.status.getLsbD 1 = decide (s.phase ≠ .idle) ∧
      s.status.getLsbD 2 = s.fault ∧ s.status.getLsbD 3 = s.refused ∧ s.status.extractLsb' 4 4 = 0 := by
  have hhigh : ∀ a b c d : Bool,
      ((0 : BitVec 4) ++ BitVec.ofBool a ++ BitVec.ofBool b ++ BitVec.ofBool c ++ BitVec.ofBool d).extractLsb' 4 4 =
        0 := by decide
  refine ⟨?_, ?_, ?_, ?_, hhigh _ _ _ _⟩ <;>
    simp only [State.status, State.busy, BitVec.getLsbD_append, BitVec.getLsbD_ofBool] <;> simp

/-- Settles O44: the disconnected branch of `close` is the fault, and only a reset moves a faulted block. -/
theorem closeWhileDisconnectedFaults : Obligations.CloseWhileDisconnectedFaults := by
  intro s hf hp hc
  have hfault : exec .hostClose s = .next s.setFault := by
    rw [exec_host_idle rfl hf hp]
    simp [hostBody, hc]
  obtain ⟨-, -, hbit, -⟩ := status_bits s.setFault
  exact ⟨_, hfault, rfl, hbit, fun u hu => ⟨step_of_fault hu, fun hr => ⟨_, step_of_resetReq hr, rfl⟩⟩⟩

/-- Settles O46: both codes are refused at `IDLE`, where the next command is then fetched. -/
theorem reservedCodesAreRefused : Obligations.ReservedCodesAreRefused := by
  intro s hf hp
  have h6 : exec .hostReserved6 s = .next s.refuse := exec_host_idle rfl hf hp
  have h7 : exec .hostReserved7 s = .next s.refuse := exec_host_idle rfl hf hp
  refine ⟨h6, h7, fun t c ht hr hc => ?_⟩
  rw [h6, Host.Outcome.next.injEq] at ht
  subst ht
  exact step_of_fetch_run (fetch_command hr hf hp hc)

/-- Settles O47: the port's gate leaves a `BUSY` block as it is. -/
theorem busyPortHolds : Obligations.BusyPortHolds := by
  intro i c s he hf hp
  rw [exec_host he]
  exact accept_next.2 ⟨hf, .inl ⟨hp, rfl⟩⟩

theorem act_of_fault {f : State → State} {s : State} (h : s.fault = true) : act f s = .fault .quiescent := by
  simp [act, h]

/-- Settles O48: every meaning stands behind the guard of R29. -/
theorem faultedBlockRunsNothing : Obligations.FaultedBlockRunsNothing := by
  rintro i s hf (⟨c, he⟩ | ⟨b, hb⟩)
  · rw [exec_host he]
    exact act_of_fault hf
  · rw [exec_wire hb]
    exact act_of_fault hf

/-! ### The frame of every operation -/

/-- Latching changes nothing but the operands. -/
theorem Starts.latch_frame {i : Instr} {latch begin : State → State} (h : Starts i latch begin) (s : State) :
    KeepsConnection s (latch s) ∧ KeepsSticky s (latch s) ∧ KeepsOutcome s (latch s) ∧ NoPrimitive s (latch s) ∧
      KeepsSequencer s (latch s) ∧ (latch s).cmds = s.cmds ∧ (latch s).resetReq = s.resetReq := by
  cases h <;> simp [KeepsConnection, KeepsSticky, KeepsOutcome, NoPrimitive, KeepsSequencer]

/-- Starting an exchange changes nothing but the sequencer. -/
theorem Starts.begin_frame {i : Instr} {latch begin : State → State} (h : Starts i latch begin) (s : State) :
    KeepsConnection s (begin s) ∧ KeepsSticky s (begin s) ∧ KeepsOutcome s (begin s) ∧ NoPrimitive s (begin s) ∧
      KeepsOperands s (begin s) ∧ (begin s).phase = .txPre ∧ (begin s).cmds = s.cmds ∧
      (begin s).resetReq = s.resetReq := by
  cases h <;> simp [KeepsConnection, KeepsSticky, KeepsOutcome, NoPrimitive, KeepsOperands]

/-- Which operation latches which operand register, and to what (R26). -/
theorem Starts.operands {i : Instr} {latch begin : State → State} (h : Starts i latch begin) (s : State) :
    ((latch s).addr ≠ s.addr → (∃ n, i = .hostReadMemory (latch s).addr n) ∨ ∃ d, i = .hostWriteMemory (latch s).addr d) ∧
    ((latch s).count ≠ s.count → (∃ a, i = .hostReadMemory a (latch s).count) ∨
      ∃ a d, i = .hostWriteMemory a d ∧ (latch s).count.toNat = d.length) ∧
    ((latch s).data ≠ s.data → ∃ a, i = .hostWriteMemory a (latch s).data) ∧
    ((latch s).start ≠ s.start → i = .hostRunProgram (latch s).start) := by
  cases h with
  | synchronize => simp
  | readMemory a n => simp
  | writeMemory a d hd => simp [toNat_length hd]
  | runProgram v => simp

/-- No byte of target memory changes where an `open` is issued. -/
theorem keepsMemory_of_tOpen {s t : State} {port : PortId} {baud : Nat} {flow : FlowControl}
    (h : t.env = s.env.after (.tOpen port baud flow)) : KeepsMemory s t := by
  intro a
  rw [h, Env.after_mem (by simp)]

theorem keepsMemory_of_env {s t : State} (h : t.env = s.env) : KeepsMemory s t := by
  intro a
  rw [h]

/-- Settles O50: each move changes only what belongs to it, and only an exchange operation latches operands. -/
theorem hostOperationFrame : Obligations.HostOperationFrame := by
  intro i c s t he h
  obtain ⟨-, ⟨-, rfl⟩ | ⟨-, hm⟩⟩ := hostMove_of_exec he h
  · simp [KeepsMemory]
  · clear h
    cases hm with
    | refuse hi =>
      have hcause : (∃ p, i = .hostOpen p) ∨ i = .hostReserved6 ∨ i = .hostReserved7 ∨
          ∃ a d, i = .hostWriteMemory a d ∧ 65535 < d.length := by
        grind
      refine ⟨keepsMemory_of_env rfl, ?_⟩
      simp [hcause]
    | fault hi hc =>
      refine ⟨keepsMemory_of_env rfl, ?_⟩
      simp [hi]
    | close hi hc =>
      refine ⟨keepsMemory_of_env rfl, ?_⟩
      simp [hi, State.closePort, Env.after_tClose]
    | opened p x hi hc ha =>
      refine ⟨keepsMemory_of_tOpen rfl, ?_⟩
      simp [hi]
    | openFailed p hi hc ha =>
      refine ⟨keepsMemory_of_tOpen rfl, ?_⟩
      simp [hi]
    | openPending p hi hc ha =>
      refine ⟨keepsMemory_of_tOpen rfl, ?_⟩
      simp [hi]
    | @start latch begin hi hc =>
      have henv : (begin (latch s.takeCommand)).env = s.env := by simp [hi.begin_frame, hi.latch_frame]
      refine ⟨keepsMemory_of_env henv, ?_⟩
      simpa [hi.begin_frame, hi.latch_frame] using hi.operands s.takeCommand
    | @notConnected latch begin hi hc =>
      have henv : ((latch s.takeCommand).raise .notConnected).env = s.env := by simp [hi.latch_frame]
      refine ⟨keepsMemory_of_env henv, ?_⟩
      simpa [hi.latch_frame] using hi.operands s.takeCommand

end Sys2Proof.Machine
end

section
/-! What each step changes: the frames of the two kinds of move, and the statements about single steps that follow. -/

namespace Sys2Proof.Machine

open Sys2Proof.Safety

/-! ### The frame of a wire command -/

theorem nextPhase_ne_idle {i : Instr} {p : Phase} {a : Answer} (h : PhaseAdvance i p a) : nextPhase p ≠ .idle := by
  obtain ⟨x, rfl, -⟩ | ⟨rest, rfl, -⟩ | ⟨x, rfl, -⟩ := h <;> simp [nextPhase]

/-- A wire command changes neither connection, operands, sticky bits nor command port. -/
theorem WireMove.frame {i : Instr} {s t : State} (h : WireMove i s t) :
    KeepsConnection s t ∧ KeepsOperands s t ∧ KeepsSticky s t ∧ t.cmds = s.cmds ∧ t.resetReq = s.resetReq := by
  cases h <;> simp [KeepsConnection, KeepsOperands, KeepsSticky]

/-- A wire command issues the one primitive of its phase. -/
theorem WireMove.port {i : Instr} {s t : State} (h : WireMove i s t) :
    t.env = s.env.after (phasePrim i s.phase) ∧
      t.trace = s.trace ++ (phasePrim i s.phase).events (s.env.answer (phasePrim i s.phase)) := by
  cases h <;> simp

/-- A wire command delivers its one response when the sequencer returns to `IDLE`, and none before. -/
theorem WireMove.outcome {i : Instr} {s t : State} (h : WireMove i s t) (hp : s.phase ≠ .idle) :
    (t.phase ≠ .idle ∧ KeepsOutcome s t) ∨
      (t.phase = .idle ∧ t.responses = s.responses ++ [⟨t.result, t.rdata⟩]) := by
  cases h with
  | pending ha => exact .inl ⟨hp, rfl, rfl, rfl⟩
  | advance ha => exact .inl ⟨nextPhase_ne_idle ha, rfl, rfl, rfl⟩
  | fail e he => exact .inr ⟨rfl, rfl⟩
  | badStatus b hi hb => exact .inr ⟨rfl, rfl⟩
  | complete d ha => exact .inr ⟨rfl, rfl⟩
  | execute d ha hr => exact .inl ⟨Phase.noConfusion, rfl, rfl, rfl⟩

/-- Settles O37: the frame of a move, with its outcome. -/
theorem wireCommandFrame : Obligations.WireCommandFrame := by
  intro i body s t hb hp h
  obtain ⟨-, hm⟩ := wireMove_of_exec hb hp h
  obtain ⟨hconn, hops, hsticky, hcmds, hreset⟩ := hm.frame
  refine ⟨hconn, hops, hsticky, hcmds, hreset, fun hpt => ?_⟩
  obtain ⟨-, hkeep⟩ | ⟨hidle, -⟩ := hm.outcome hp
  · exact hkeep
  · exact absurd hidle hpt

/-! ### The status bits and the transport configuration -/

/-- The sticky bits only ever rise, each for its own cause (R206). -/
theorem HostMove.sticky {i : Instr} {s t : State} (h : HostMove i s t) :
    (s.refused = true → t.refused = true) ∧
    (t.fault ≠ s.fault → t.fault = true ∧ i = .hostClose ∧ s.conn = .disconnected) ∧
    (t.refused ≠ s.refused → t.refused = true ∧ Refuses i s) := by
  cases h with
  | refuse hi => exact ⟨fun _ => rfl, fun h => absurd rfl h, fun _ => ⟨rfl, hi⟩⟩
  | fault hi hc => exact ⟨id, fun _ => ⟨rfl, hi, hc⟩, fun h => absurd rfl h⟩
  | close hi hc => exact ⟨id, fun h => absurd rfl h, fun h => absurd rfl h⟩
  | opened p x hi hc ha => exact ⟨id, fun h => absurd rfl h, fun h => absurd rfl h⟩
  | openFailed p hi hc ha => exact ⟨id, fun h => absurd rfl h, fun h => absurd rfl h⟩
  | openPending p hi hc ha => exact ⟨id, fun h => absurd rfl h, fun h => absurd rfl h⟩
  | start hi hc => simp [hi.begin_frame, hi.latch_frame]
  | notConnected hi hc => simp [hi.latch_frame]

/-- Under the fetched instruction's name, the causes of a refusal are those of R206. -/
theorem refusedNext_iff {i : Instr} {s : State} (h : s.fetch = .run i) : RefusedNext s ↔ Refuses i s := by
  simp [RefusedNext, Refuses, h]

/-- Settles O16: the bits are read off `STATUS`, and only the moves of the command port set a sticky bit. -/
theorem statusRegister : Obligations.StatusRegister := by
  refine ⟨status_bits, rfl, fun s => step_of_fault, fun s t hr h => ?_⟩
  obtain ⟨hf, hm⟩ := stepMove_of_step hr h
  cases hm with
  | wait hp hc => simp
  | @host i t hp hc hi hm =>
    obtain ⟨hkeep, hfault, hrefused⟩ := hm.sticky
    refine ⟨hkeep, fun hne => ?_, fun hne => ?_⟩
    · obtain ⟨ht, rfl, hconn⟩ := hfault hne
      exact ⟨ht, hi, hconn⟩
    · obtain ⟨ht, hcause⟩ := hrefused hne
      exact ⟨ht, (refusedNext_iff hi).2 hcause⟩
  | wire hp hi hfetch hm =>
    obtain ⟨-, -, ⟨hfault, hrefused⟩, -⟩ := hm.frame
    simp [hfault, hrefused]

/-- Only an `open` writes `PORT_ID` (R22). -/
theorem HostMove.portId {i : Instr} {s t : State} (h : HostMove i s t) (hne : t.portId ≠ s.portId) :
    i = .hostOpen t.portId := by
  cases h with
  | opened p x hi hc ha => exact hi
  | start hi hc => simp [hi.begin_frame, hi.latch_frame] at hne
  | notConnected hi hc => simp [hi.latch_frame] at hne
  | _ => exact absurd rfl hne

/-- Settles O17: only the command port has a move that writes `PORT_ID`. -/
theorem transportConfiguration : Obligations.TransportConfiguration := by
  refine ⟨fun s => ⟨rfl, rfl, rfl⟩, fun s t hr h hne => ?_⟩
  obtain ⟨-, hm⟩ := stepMove_of_step hr h
  cases hm with
  | wait hp hc => exact absurd rfl hne
  | host hp hc hi hm => exact hm.portId hne ▸ hi
  | wire hp hi hfetch hm =>
    obtain ⟨⟨-, hport, -⟩, -⟩ := hm.frame
    exact absurd hport hne

/-- `CONN` moves only by an `open` whose `TOpen` returned `OK` and by a `close` (R100). -/
theorem HostMove.conn {i : Instr} {s t : State} (h : HostMove i s t) (hne : t.conn ≠ s.conn) :
    (∃ p x, i = .hostOpen p ∧ s.conn = .disconnected ∧ t.conn = .connected ∧ t.result = 0 ∧
      s.env.answer (.tOpen p 57600 .rtsCts) = .ok x) ∨
    (i = .hostClose ∧ s.conn = .connected ∧ t.conn = .disconnected ∧ t.result = 0) := by
  cases h with
  | opened p x hi hc ha => exact .inl ⟨p, x, hi, hc, rfl, rfl, ha⟩
  | close hi hc => exact .inr ⟨hi, hc, rfl, rfl⟩
  | start hi hc => simp [hi.begin_frame, hi.latch_frame] at hne
  | notConnected hi hc => simp [hi.latch_frame] at hne
  | _ => exact absurd rfl hne

/-- Settles O21: only the command port has moves that change `CONN`. -/
theorem connectionMovesOnlyByOpenAndClose : Obligations.ConnectionMovesOnlyByOpenAndClose := by
  intro s t hr h hne
  obtain ⟨-, hm⟩ := stepMove_of_step hr h
  cases hm with
  | wait hp hc => exact absurd rfl hne
  | host hp hc hi hm =>
    obtain ⟨p, x, rfl, hmove⟩ | ⟨rfl, hmove⟩ := hm.conn hne
    · exact .inl ⟨p, x, hi, hmove⟩
    · exact .inr ⟨hi, hmove⟩
  | wire hp hi hfetch hm =>
    obtain ⟨⟨hconn, -⟩, -⟩ := hm.frame
    exact absurd hconn hne

/-! ### Primitives -/

/-- A primitive leaves no event while it is unanswered, and one when it is answered. -/
theorem Prim.events_cases (p : Prim) (a : Answer) : p.events a = [] ∨ p.events a = [⟨p, a⟩] := by
  by_cases h : a = .silent
  · exact .inl (h ▸ p.events_silent)
  · exact .inr (Prim.events_answered h)

/-- At `IDLE` the block issues `TOpen` or `TClose` and nothing else. -/
theorem HostMove.trace {i : Instr} {s t : State} (h : HostMove i s t) :
    t.trace = s.trace ∨ ∃ (p : Prim) (a : Answer), t.trace = s.trace ++ p.events a ∧
      ((∃ port, p = .tOpen port 57600 .rtsCts) ∨ p = .tClose) := by
  cases h with
  | refuse hi => exact .inl rfl
  | fault hi hc => exact .inl rfl
  | close hi hc => exact .inr ⟨.tClose, _, rfl, .inr rfl⟩
  | opened p x hi hc ha => exact .inr ⟨_, _, rfl, .inl ⟨p, rfl⟩⟩
  | openFailed p hi hc ha => exact .inr ⟨_, _, rfl, .inl ⟨p, rfl⟩⟩
  | openPending p hi hc ha => exact .inr ⟨_, _, rfl, .inl ⟨p, rfl⟩⟩
  | start hi hc => exact .inl (by simp [hi.begin_frame, hi.latch_frame])
  | notConnected hi hc => exact .inl (by simp [hi.latch_frame])

/-- Where the sequencer stands when this primitive is issued (R33, R121). -/
abbrev InSequence (s : State) (p : Prim) : Prop :=
  (s.phase = .idle ∧ ((∃ port, p = .tOpen port 57600 .rtsCts) ∨ p = .tClose)) ∨
  (s.phase = .txPre ∧ p = .txWrite [0x55, 0xAA]) ∨
  (s.phase = .rxAck ∧ p = .rxRead 1) ∨
  (s.phase = .txBody ∧ ∃ i body, s.inFlight = some i ∧ encodeBody i = some body ∧ p = .txWrite body) ∨
  (s.phase = .rxResp ∧ ∃ i, s.inFlight = some i ∧ p = .rxRead (responseLength i))

theorem inSequence_phasePrim {i : Instr} {s : State} (hi : s.inFlight = some i) : InSequence s (phasePrim i s.phase) := by
  cases hp : s.phase with
  | idle => simp [InSequence, hp, phasePrim]
  | txPre => simp [InSequence, hp, phasePrim, preamble]
  | rxAck => simp [InSequence, hp, phasePrim]
  | txBody =>
    obtain ⟨body, hb⟩ := encodeBody_inFlight hi
    simp [InSequence, hp, phasePrim, hi, hb]
  | rxResp => simp [InSequence, hp, phasePrim, hi]

/-- A history that grows by a primitive's events is as it was, or one longer. -/
theorem trace_of_events {s t : State} {p : Prim} {a : Answer} (ht : t.trace = s.trace ++ p.events a)
    (hp : InSequence s p) : t.trace = s.trace ∨ ∃ p a, t.trace = s.trace ++ [⟨p, a⟩] ∧ InSequence s p := by
  obtain he | he := p.events_cases a <;> rw [he] at ht
  · exact .inl (by simpa using ht)
  · exact .inr ⟨p, a, ht, hp⟩

/-- Settles O22: the primitive of a move is the one of the sequencer's position. -/
theorem onePrimitiveInSequence : Obligations.OnePrimitiveInSequence := by
  intro s t hr h
  obtain ⟨-, hm⟩ := stepMove_of_step hr h
  cases hm with
  | wait hp hc => exact .inl rfl
  | host hp hc hi hm =>
    obtain ht | ⟨p, a, ht, hprim⟩ := hm.trace
    · exact .inl ht
    · exact trace_of_events ht (.inl ⟨hp, hprim⟩)
  | wire hp hi hfetch hm => exact trace_of_events hm.port.2 (inSequence_phasePrim hi)

/-! ### Responses -/

theorem Starts.not_refuses {i : Instr} {latch begin : State → State} (h : Starts i latch begin) (s : State) :
    ¬ Refuses i s := by
  cases h with
  | writeMemory a d hd =>
    have hd' : d.length ≤ 65535 := hd
    simp [Refuses, hd']
  | _ => simp [Refuses]

theorem Starts.ne_hostClose {i : Instr} {latch begin : State → State} (h : Starts i latch begin) : i ≠ .hostClose := by
  cases h <;> exact Instr.noConfusion

/-- What becomes of the command at the port: it is held while an `open` is unanswered, dropped with its status bit set, or
taken, and then starts an exchange or ends with its one response (R32, R206). -/
theorem HostMove.outcome {i : Instr} {s t : State} (h : HostMove i s t) (hp : s.phase = .idle) :
    (t.phase = .idle ∧ t.cmds = s.cmds ∧ KeepsOutcome s t ∧ KeepsSticky s t ∧
      ∃ port, i = .hostOpen port ∧ s.conn = .disconnected ∧
        s.env.answer (.tOpen port 57600 .rtsCts) = .silent) ∨
    (t.cmds = s.cmds.tail ∧ KeepsOutcome s t ∧ NoPrimitive s t ∧ t.phase = .idle ∧
      ((Refuses i s ∧ t.refused = true) ∨ ((i = .hostClose ∧ s.conn = .disconnected) ∧ t.fault = true))) ∨
    (t.cmds = s.cmds.tail ∧ ¬ Refuses i s ∧ ¬ (i = .hostClose ∧ s.conn = .disconnected) ∧ KeepsSticky s t ∧
      ((t.phase = .txPre ∧ KeepsOutcome s t) ∨
       (t.phase = .idle ∧ t.responses = s.responses ++ [⟨t.result, t.rdata⟩]))) := by
  cases h with
  | refuse hi => exact .inr (.inl ⟨rfl, ⟨rfl, rfl, rfl⟩, ⟨rfl, rfl⟩, hp, .inl ⟨hi, rfl⟩⟩)
  | fault hi hc => exact .inr (.inl ⟨rfl, ⟨rfl, rfl, rfl⟩, ⟨rfl, rfl⟩, hp, .inr ⟨⟨hi, hc⟩, rfl⟩⟩)
  | close hi hc => exact .inr (.inr ⟨rfl, by simp [Refuses, hi], by simp [hc], ⟨rfl, rfl⟩, .inr ⟨rfl, rfl⟩⟩)
  | opened p x hi hc ha =>
    exact .inr (.inr ⟨rfl, by simp [Refuses, hi, hc], by simp [hi], ⟨rfl, rfl⟩, .inr ⟨rfl, rfl⟩⟩)
  | openFailed p hi hc ha =>
    exact .inr (.inr ⟨rfl, by simp [Refuses, hi, hc], by simp [hi], ⟨rfl, rfl⟩, .inr ⟨rfl, rfl⟩⟩)
  | openPending p hi hc ha => exact .inl ⟨hp, rfl, ⟨rfl, rfl, rfl⟩, ⟨rfl, rfl⟩, p, hi, hc, ha⟩
  | start hi hc =>
    refine .inr (.inr ⟨?_, hi.not_refuses s, fun h => hi.ne_hostClose h.1, ?_, .inl ?_⟩) <;>
      simp [KeepsSticky, KeepsOutcome, hi.begin_frame, hi.latch_frame]
  | notConnected hi hc =>
    refine .inr (.inr ⟨?_, hi.not_refuses s, fun h => hi.ne_hostClose h.1, ?_, .inr ?_⟩) <;>
      simp [KeepsSticky, hi.latch_frame]

/-- Settles O23: the outcome of each kind of move, under the fetched instruction's name. -/
theorem oneResponsePerOperation : Obligations.OneResponsePerOperation := by
  intro s t hr h
  obtain ⟨-, hm⟩ := stepMove_of_step hr h
  cases hm with
  | wait hp hc => exact ⟨fun _ => .inl ⟨hp, rfl, ⟨rfl, rfl, rfl⟩, ⟨rfl, rfl⟩, .inl hc⟩, fun hne => absurd hp hne⟩
  | @host i t hp hc hi hm =>
    refine ⟨fun _ => ?_, fun hne => absurd hp hne⟩
    have hfaulting : FaultingNext s ↔ i = .hostClose ∧ s.conn = .disconnected := by simp [FaultingNext, hi]
    rw [refusedNext_iff hi, hfaulting]
    obtain ⟨hidle, hcmds, hkeep, hsticky, port, rfl, hopen⟩ | hdrop | htake := hm.outcome hp
    · exact .inl ⟨hidle, hcmds, hkeep, hsticky, .inr ⟨port, hi, hopen⟩⟩
    · exact .inr (.inl ⟨hc, hdrop⟩)
    · exact .inr (.inr ⟨hc, htake⟩)
  | wire hp hi hfetch hm =>
    obtain ⟨-, -, -, hcmds, -⟩ := hm.frame
    exact ⟨fun hidle => absurd hidle hp, fun _ => ⟨hcmds, hm.outcome hp⟩⟩

/-! ### What the invariant says of the exchange in flight -/

/-- An exchange in flight has its wire command (R25). -/
theorem exists_inFlight {s : State} (h : Inv s) (hp : s.phase ≠ .idle) : ∃ i, s.inFlight = some i := by
  obtain ⟨-, ⟨hidle, -⟩, -⟩ := h
  have hx : s.xop ≠ .none := fun hx => hp (hidle.2 hx)
  unfold State.inFlight
  cases hr : s.runseq <;> cases hxop : s.xop <;> simp [hxop] at hx ⊢

/-- While a response is awaited, no `runProgram` is in progress: neither of its exchanges has one (R161). -/
theorem runseq_of_rxResp {s : State} (h : Inv s) (hp : s.phase = .rxResp) : s.runseq = .none := by
  obtain ⟨-, -, ⟨hregs, hexec⟩, hresp, -⟩ := h
  cases hr : s.runseq with
  | none => rfl
  | regs =>
    have hx := hregs hr
    rcases hresp hp with hx' | ⟨hx', -⟩ <;> rw [hx] at hx' <;> cases hx'
  | exec =>
    have hx := hexec.1 hr
    rcases hresp hp with hx' | ⟨hx', -⟩ <;> rw [hx] at hx' <;> cases hx'

/-! ### When a step stops -/

/-- What is fetched to run is a command-port operation or one of the four wire commands. -/
theorem runnable_of_fetch {s : State} {i : Instr} (h : s.fetch = .run i) :
    (∃ c, encode i = .port c) ∨ ∃ body, encodeBody i = some body := by
  unfold State.fetch at h
  split at h
  · cases h
  split at h
  · cases h
  split at h
  · split at h
    · rename_i j hj
      cases h
      exact .inr (encodeBody_inFlight hj)
    · cases h
  · split at h
    · cases h
    · cases h
      exact .inl (encode_decodeCommand _)

/-- Each of them stands behind the guard of R29. -/
theorem exec_runnable {s : State} {i : Instr} (h : s.fetch = .run i) : ∃ f, exec i s = act f s := by
  obtain ⟨c, he⟩ | ⟨body, hb⟩ := runnable_of_fetch h
  · exact ⟨_, exec_host he s⟩
  · exact ⟨_, exec_wire hb s⟩

theorem step_next_of_fetch_run {s : State} {i : Instr} (hf : s.fault = false) (h : s.fetch = .run i) :
    ∃ t, step s = .next t := by
  obtain ⟨f, hx⟩ := exec_runnable h
  exact ⟨f s, by rw [step_of_fetch_run h, hx, act_ok hf]⟩

theorem act_ne_refused (f : State → State) (s : State) (r : Refusal) : act f s ≠ .refused r := by
  unfold act
  split <;> simp

/-- Settles O20: under the invariant an instruction is fetched wherever the block is neither reset, faulted nor waiting. -/
theorem onlyFaultedBlockStops : Obligations.OnlyFaultedBlockStops := by
  refine ⟨fun s hinv => ?_, fun s r h => ?_⟩
  · cases hr : s.resetReq with
    | true => exact .inl ⟨_, step_of_resetReq hr⟩
    | false =>
      cases hf : s.fault with
      | true => exact .inr ⟨rfl, rfl, step_of_fault hf hr⟩
      | false =>
        left
        by_cases hp : s.phase = .idle
        · cases hc : s.cmds with
          | nil => exact ⟨s, step_of_fetch_wait (fetch_wait hr hf hp hc)⟩
          | cons c rest => exact step_next_of_fetch_run hf (fetch_command hr hf hp hc)
        · obtain ⟨i, hi⟩ := exists_inFlight hinv hp
          exact step_next_of_fetch_run hf (fetch_inFlight hr hf hp hi)
  · cases hfetch : s.fetch with
    | run i =>
      obtain ⟨f, hx⟩ := exec_runnable hfetch
      rw [step_of_fetch_run hfetch, hx] at h
      exact act_ne_refused f s r h
    | _ => simp [step, hfetch] at h

/-! ### The sequencer -/

/-- A command-port operation leaves the block at `IDLE`, or `CONNECTED` at the start of an exchange (R103). -/
theorem HostMove.phase {i : Instr} {s t : State} (h : HostMove i s t) (hp : s.phase = .idle) :
    t.phase = .idle ∨ (t.phase = .txPre ∧ s.conn = .connected) := by
  cases h with
  | start hi hc => exact .inr ⟨by simp [hi.begin_frame], hc⟩
  | refuse hi => exact .inl hp
  | fault hi hc => exact .inl hp
  | openPending p hi hc ha => exact .inl hp
  | _ => exact .inl rfl

/-- Where an exchange step can go (R121). -/
theorem WireMove.phase {i : Instr} {s t : State} (h : WireMove i s t) (hinv : Inv s) (hi : s.inFlight = some i)
    (hp : s.phase ≠ .idle) (hne : t.phase ≠ s.phase) :
    (s.phase = .txPre ∧ t.phase = .rxAck) ∨
    (s.phase = .rxAck ∧ t.phase = .txBody ∧ s.env.answer (.rxRead 1) = .ok [0xCC]) ∨
    (s.phase = .txBody ∧ t.phase = .rxResp ∧ ∃ i, s.inFlight = some i ∧ responseLength i ≠ 0) ∨
    (s.phase = .txBody ∧ t.phase = .txPre ∧ s.runseq = .regs ∧ t.runseq = .exec) ∨
    (s.phase ≠ .idle ∧ t.phase = .idle) := by
  cases h with
  | pending ha => exact absurd rfl hne
  | advance ha =>
    obtain ⟨x, hph, -⟩ | ⟨rest, hph, ha⟩ | ⟨x, hph, -, hlen⟩ := ha
    · exact .inl ⟨hph, by simp [hph, nextPhase]⟩
    · rw [hph] at ha
      have hone := Env.answer_rxRead_length ha
      have hrest : rest = [] := by simpa using hone
      exact .inr (.inl ⟨hph, by simp [hph, nextPhase], hrest ▸ ha⟩)
    · exact .inr (.inr (.inl ⟨hph, by simp [hph, nextPhase], i, hi, hlen⟩))
  | fail e he => exact .inr (.inr (.inr (.inr ⟨hp, rfl⟩)))
  | badStatus b hi hb => exact .inr (.inr (.inr (.inr ⟨hp, rfl⟩)))
  | complete d ha => exact .inr (.inr (.inr (.inr ⟨hp, rfl⟩)))
  | execute d ha hr =>
    obtain ⟨x, hph, -⟩ | ⟨hph, -⟩ := ha
    · exact .inr (.inr (.inr (.inl ⟨hph, rfl, hr, rfl⟩)))
    · rw [runseq_of_rxResp hinv hph] at hr
      cases hr

/-- Settles O24: at `IDLE` only a started exchange moves the sequencer; elsewhere the table of R121 does. -/
theorem phaseFollowsTable : Obligations.PhaseFollowsTable := by
  intro s t hinv hr h hne
  obtain ⟨-, hm⟩ := stepMove_of_step hr h
  cases hm with
  | wait hp hc => exact absurd rfl hne
  | host hp hc hi hm =>
    obtain hidle | ⟨hpre, hconn⟩ := hm.phase hp
    · exact absurd (hidle.trans hp.symm) hne
    · exact .inl ⟨hp, hpre, hconn⟩
  | wire hp hi hfetch hm => exact .inr (hm.phase hinv hi hp hne)

end Sys2Proof.Machine
end

section
/-! The invariant: it holds at reset, and every move of a step keeps it. -/

namespace Sys2Proof.Machine

open Sys2Proof.Safety

/-- Settles O13: every part of the invariant is about the reset values. -/
theorem resetMeetsInvariant : Obligations.ResetMeetsInvariant := by
  refine ⟨rfl, ?_, ?_, ?_, ?_, ?_, ?_, rfl⟩ <;> decide

/-! ### The exchange in flight -/

/-- In flight, a Sync is no part of a `runProgram` (R25). -/
theorem inFlight_sync {s : State} (h : s.inFlight = some .cmdSync) : s.xop = .sync ∧ s.runseq = .none := by
  unfold State.inFlight regblockWrite at h
  cases hr : s.runseq <;> cases hx : s.xop <;> simp_all

/-- In flight, a read asks for `COUNT` bytes (R140). -/
theorem inFlight_read {s : State} {a : Addr} {n : Half} (h : s.inFlight = some (.cmdReadMem a n)) :
    s.xop = .read ∧ s.count = n := by
  unfold State.inFlight regblockWrite at h
  cases hr : s.runseq <;> cases hx : s.xop <;> simp_all

/-! ### Legal `RESULT` words -/

/-- Every word of a transport error but a failed open, and that one with `STAGE` 0, is legal. -/
theorem resultLegal_transport {cause : TransportCause} {stage : Bool} (h : cause = .openFailed → stage = false) :
    resultLegal (OpError.word stage (.transport cause)) = true := by
  cases cause <;> simp [OpError.word, resultLegal, TransportCause.code, h]

theorem resultLegal_notConnected (stage : Bool) : resultLegal (OpError.word stage .notConnected) = true := by
  simp [OpError.word, resultLegal]

theorem resultLegal_shortAck {isSync stage : Bool} (h : isSync = true → stage = false) :
    resultLegal (OpError.word stage (.protocol isSync .shortAck)) = true := by
  cases isSync <;> simp_all [OpError.word, resultLegal, ProtocolCause.code, ProtocolCause.gotByte, ProtocolCause.gotCount]

theorem resultLegal_badAck {isSync stage : Bool} {b : Byte} (h : isSync = true → stage = false) (hb : b ≠ ackByte) :
    resultLegal (OpError.word stage (.protocol isSync (.badAck b))) = true := by
  cases isSync <;> simp_all [OpError.word, resultLegal, ProtocolCause.code, ProtocolCause.gotByte, ProtocolCause.gotCount]

theorem resultLegal_badStatus {b : Byte} (hb : b ≠ syncOk) :
    resultLegal (OpError.word false (.protocol true (.badStatus b))) = true := by
  simp [OpError.word, resultLegal, ProtocolCause.code, ProtocolCause.gotByte, ProtocolCause.gotCount, hb]

theorem resultLegal_shortResponse {isSync : Bool} {n : Nat} (h : isSync = true → n = 0) :
    resultLegal (OpError.word false (.protocol isSync (.shortResponse n))) = true := by
  cases isSync <;> simp_all [OpError.word, resultLegal, ProtocolCause.code, ProtocolCause.gotByte, ProtocolCause.gotCount]

/-- Whatever an exchange step raises, the word is legal (R28). -/
theorem resultLegal_phaseError {i : Instr} {s : State} {e : OpError} {a : Answer} (hinv : Inv s) (hi : s.inFlight = some i)
    (he : PhaseError i (decide (i = .cmdSync)) s.phase a e) :
    resultLegal (e.word (decide (s.runseq = .exec))) = true := by
  have hstage : decide (i = .cmdSync) = true → decide (s.runseq = .exec) = false := by
    intro hsync
    rw [of_decide_eq_true hsync] at hi
    simp [(inFlight_sync hi).2]
  obtain ⟨-, -, rfl⟩ | ⟨-, -, rfl⟩ | ⟨-, -, rfl⟩ | ⟨b, rest, -, -, hb, rfl⟩ | ⟨-, -, rfl⟩ | ⟨-, -, rfl⟩ |
    ⟨d, hp, -, hd, rfl⟩ := he
  · exact resultLegal_transport (by simp)
  · exact resultLegal_transport (by simp)
  · exact resultLegal_shortAck hstage
  · exact resultLegal_badAck hstage hb
  · exact resultLegal_transport (by simp)
  · exact resultLegal_transport (by simp)
  · rw [runseq_of_rxResp hinv hp]
    refine resultLegal_shortResponse fun hsync => ?_
    rw [of_decide_eq_true hsync] at hd
    exact Nat.lt_one_iff.1 hd

/-! ### What each update keeps -/

/-- The end of an operation keeps the invariant, with a legal word and data that fit `RDATA`. -/
theorem inv_finish {s : State} {r : BitVec 32} {d : Bytes} (h : Inv s) (hr : resultLegal r = true)
    (hd : d.length ≤ Config.maxXfer) : Inv (s.finish r d) := by
  obtain ⟨hhandle, -, -, -, ⟨hdata, -, -⟩, -, hfault, hmem⟩ := h
  refine ⟨hhandle, by simp [SequencerInv], by simp [RunSeqInv], by simp [ResponseInv], ⟨hdata, hd, by simp⟩, hr,
    fun hf => ⟨rfl, (hfault hf).2⟩, hmem⟩

theorem inv_issue {s : State} (h : Inv s) (p : Prim) : Inv (s.issue p) := by
  obtain ⟨hhandle, hseq, hrun, hresp, hbuf, hres, hfault, hmem⟩ := h
  exact ⟨hhandle, hseq, hrun, hresp, hbuf, hres, hfault, Env.after_wf hmem p⟩

/-- Operands are latched at `IDLE`, where nothing rests on them. -/
theorem Starts.inv_latch {i : Instr} {latch begin : State → State} (hi : Starts i latch begin) {s : State}
    (hp : s.phase = .idle) (h : Inv s) : Inv (latch s) := by
  obtain ⟨hhandle, hseq, hrun, hresp, ⟨hdata, hrdata, hcount⟩, hrest⟩ := h
  have hx : s.xop = .none := hseq.1.1 hp
  cases hi with
  | synchronize => exact ⟨hhandle, hseq, hrun, hresp, ⟨hdata, hrdata, hcount⟩, hrest⟩
  | readMemory a n =>
    exact ⟨hhandle, hseq, hrun, by simp [ResponseInv, hp], ⟨hdata, hrdata, by simp [hx]⟩, hrest⟩
  | writeMemory a d hd =>
    exact ⟨hhandle, hseq, hrun, by simp [ResponseInv, hp], ⟨hd, hrdata, by simp [hx]⟩, hrest⟩
  | runProgram v => exact ⟨hhandle, hseq, hrun, hresp, ⟨hdata, hrdata, hcount⟩, hrest⟩

/-- At `IDLE` no `runProgram` is in progress. -/
theorem runseq_of_idle {s : State} (h : Inv s) (hp : s.phase = .idle) : s.runseq = .none := by
  obtain ⟨-, ⟨hidle, -⟩, ⟨hregs, hexec⟩, -⟩ := h
  rw [hidle.1 hp] at hregs hexec
  cases hr : s.runseq with
  | none => rfl
  | regs => cases hregs hr
  | exec => cases hexec.1 hr

/-- Starting an exchange of a connected block keeps the invariant, where `RUNSEQ` agrees with `XOP` and the latched `COUNT`
with the data of a write. -/
theorem inv_startExchange {s : State} (x : XOp) (r : RunSeq) (h : Inv s) (hc : s.conn = .connected) (hx : x ≠ .none)
    (hregs : r = .regs → x = .write) (hexec : r = .exec ↔ x = .exec)
    (hcount : x = .write → r = .none → s.count.toNat = s.data.length) :
    Safety.Inv (State.startExchange x { s with runseq := r }) := by
  obtain ⟨hhandle, -, -, -, ⟨hdata, hrdata, -⟩, hres, hfault, hmem⟩ := h
  refine ⟨hhandle, ⟨by simp [hx], fun _ => hc⟩, ⟨hregs, hexec⟩, by simp [ResponseInv], ⟨hdata, hrdata, hcount⟩, hres,
    fun hf => ?_, hmem⟩
  obtain ⟨-, hd⟩ := hfault hf
  rw [hc] at hd
  cases hd

theorem Starts.inv_begin {i : Instr} {latch begin : State → State} (hi : Starts i latch begin) {s : State}
    (hp : s.phase = .idle) (hc : s.conn = .connected) (h : Inv s) : Inv (begin (latch s)) := by
  have hl := hi.inv_latch hp h
  have hr := runseq_of_idle h hp
  cases hi with
  | synchronize => exact inv_startExchange .sync s.runseq hl hc (by simp) (by simp [hr]) (by simp [hr]) (by simp)
  | readMemory a n => exact inv_startExchange .read s.runseq hl hc (by simp) (by simp [hr]) (by simp [hr]) (by simp)
  | writeMemory a d hd =>
    exact inv_startExchange .write s.runseq hl hc (by simp) (by simp) (by simp [hr]) (fun _ _ => toNat_length hd)
  | runProgram v => exact inv_startExchange .write .regs hl hc (by simp) (by simp) (by simp) (by simp)

/-! ### What each move keeps -/

/-- At `IDLE` the connection can move, if the handle moves with it (R23). -/
theorem inv_reconnect {s : State} (c : Conn) (port : PortId) (h : Inv s) (hp : s.phase = .idle) (hf : s.fault = false) :
    Safety.Inv
      { s with portId := port, thandle := if c = .connected then some { port := port } else none, conn := c } := by
  obtain ⟨-, ⟨hidle, -⟩, hrun, hresp, hbuf, hres, -, hmem⟩ := h
  exact ⟨rfl, ⟨hidle, fun hne => absurd hp hne⟩, hrun, hresp, hbuf, hres, by simp [FaultInv, hf], hmem⟩

theorem HostMove.inv {i : Instr} {s t : State} (hm : HostMove i s t) (hf : s.fault = false) (hp : s.phase = .idle)
    (h : Inv s) : Inv t := by
  have hr := runseq_of_idle h hp
  have hstage : decide (s.runseq = .exec) = false := by simp [hr]
  have htake : Inv s.takeCommand := h
  cases hm with
  | refuse hi => exact h
  | fault hi hc =>
    obtain ⟨hhandle, hseq, hrun, hresp, hbuf, hres, -, hmem⟩ := h
    exact ⟨hhandle, hseq, hrun, hresp, hbuf, hres, fun _ => ⟨hp, hc⟩, hmem⟩
  | close hi hc =>
    exact inv_finish (inv_reconnect .disconnected s.portId (inv_issue htake .tClose) hp hf) rfl (by simp)
  | opened p x hi hc ha => exact inv_finish (inv_reconnect .connected p (inv_issue htake _) hp hf) rfl (by simp)
  | openFailed p hi hc ha =>
    refine inv_finish (inv_issue htake _) (resultLegal_transport fun _ => hstage) (by simp)
  | openPending p hi hc ha => exact inv_issue h _
  | start hi hc => exact hi.inv_begin hp hc htake
  | notConnected hi hc => exact inv_finish (hi.inv_latch hp htake) (resultLegal_notConnected _) (by simp)

/-- A response is due only in a Sync and in a read of some bytes. -/
theorem responseInv_of_due {s : State} {i : Instr} (hi : s.inFlight = some i) (hn : responseLength i ≠ 0) :
    s.xop = .sync ∨ (s.xop = .read ∧ s.count ≠ 0) := by
  cases i with
  | cmdSync => exact .inl (inFlight_sync hi).1
  | cmdReadMem a n =>
    obtain ⟨hx, rfl⟩ := inFlight_read hi
    exact .inr ⟨hx, fun h => hn (by simp [responseLength, h])⟩
  | _ => exact absurd rfl hn

theorem length_responseData {i : Instr} {p : Phase} {e : Env} {d : Bytes} (h : PhaseDone i p (e.answer (phasePrim i p)) d) :
    (responseData i d).length ≤ Config.maxXfer := by
  cases i with
  | cmdReadMem a n =>
    obtain ⟨x, -, -, -, rfl⟩ | ⟨rfl, ha, -⟩ := h
    · simp [responseData]
    · exact (Env.answer_rxRead_length ha).trans (Nat.le_of_lt_succ n.isLt)
  | _ => simp [responseData]

/-- While the sequencer moves on inside an exchange, only `RX_RESP` asks for more. -/
theorem inv_nextPhase {s : State} {p : Phase} (h : Inv s) (hp : s.phase ≠ .idle) (hn : p ≠ .idle)
    (hresp : p = .rxResp → s.xop = .sync ∨ (s.xop = .read ∧ s.count ≠ 0)) : Safety.Inv { s with phase := p } := by
  obtain ⟨hhandle, ⟨hidle, hconn⟩, hrun, -, hbuf, hres, hfault, hmem⟩ := h
  have hx : s.xop ≠ .none := fun hx => hp (hidle.2 hx)
  exact ⟨hhandle, ⟨by simp [hn, hx], fun _ => hconn hp⟩, hrun, hresp, hbuf, hres,
    fun hf => absurd (hfault hf).1 hp, hmem⟩

theorem WireMove.inv {i : Instr} {s t : State} (hm : WireMove i s t) (hi : s.inFlight = some i) (hp : s.phase ≠ .idle)
    (h : Inv s) : Inv t := by
  have hissue := inv_issue h (phasePrim i s.phase)
  cases hm with
  | pending ha => exact hissue
  | advance ha =>
    refine inv_nextPhase hissue hp (nextPhase_ne_idle ha) fun hph => ?_
    obtain ⟨x, hph', -⟩ | ⟨rest, hph', -⟩ | ⟨x, -, -, hn⟩ := ha
    · simp [hph', nextPhase] at hph
    · simp [hph', nextPhase] at hph
    · exact responseInv_of_due hi hn
  | fail e he => exact inv_finish hissue (resultLegal_phaseError (s := s) h hi he) (by simp)
  | badStatus b hi' hb =>
    subst hi'
    have hstage : decide (s.runseq = .exec) = false := by simp [(inFlight_sync hi).2]
    refine inv_finish hissue ?_ (by simp)
    rw [State.issue_runseq, hstage]
    exact resultLegal_badStatus hb
  | complete d ha => exact inv_finish hissue rfl (length_responseData ha)
  | execute d ha hr =>
    obtain ⟨-, ⟨-, hconn⟩, -⟩ := h
    exact inv_startExchange .exec .exec hissue (hconn hp) (by simp) (by simp) (by simp) (by simp)

/-- A reset leaves a block at its reset values, and the memory behind the port as it is. -/
theorem inv_hwReset {s : State} (h : Inv s) : Inv s.hwReset := by
  obtain ⟨-, -, -, -, -, -, -, hmem⟩ := h
  obtain ⟨hhandle, hseq, hrun, hresp, hbuf, hres, hfault, -⟩ := resetMeetsInvariant
  refine ⟨hhandle, hseq, hrun, hresp, hbuf, hres, hfault, ?_⟩
  unfold State.hwReset
  split <;> exact hmem

/-- Settles O19: a reset and every move of a step keep the invariant. -/
theorem stepKeepsInvariant : Obligations.StepKeepsInvariant := by
  intro s t hinv h
  cases hr : s.resetReq with
  | true =>
    rw [step_of_resetReq hr, Host.Outcome.next.injEq] at h
    exact h ▸ inv_hwReset hinv
  | false =>
    obtain ⟨hf, hm⟩ := stepMove_of_step hr h
    cases hm with
    | wait hp hc => exact hinv
    | host hp hc hi hm => exact hm.inv hf hp hinv
    | wire hp hi hfetch hm => exact hm.inv hi hp hinv

end Sys2Proof.Machine
end

section
/-! What the wire commands leave unchanged of target memory. -/

namespace Sys2Proof.Machine

open Sys2Proof.Safety

/-- At `IDLE` and in an exchange alike, the environment is that after the primitive of the phase; at `IDLE` there is none,
and `TClose`, which changes nothing, stands for it. -/
theorem exec_wire_env {i : Instr} {body : Bytes} {s t : State} (hb : encodeBody i = some body) (h : exec i s = .next t) :
    t.env = s.env.after (phasePrim i s.phase) := by
  by_cases hp : s.phase = .idle
  · rw [exec_wire hb, act_next] at h
    obtain ⟨-, rfl⟩ := h
    simp only [State.exchange, hp, phasePrim, Env.after_tClose]
    obtain ⟨-, ht⟩ | ⟨-, ht⟩ := State.whenConnected_cases (startOf i) s <;> rw [ht]
    · cases i <;> rfl
    · rfl
  · exact (wireMove_of_exec hb hp h).2.port.1

/-- A `TxWrite` changes no byte of memory at `x` where neither the whole sequence nor a failed part of it does. -/
theorem read_after_txWrite {e : Env} {bytes : Bytes} {x : Nat}
    (hwhole : ∀ o, (e.peer.receive o bytes).mem.read x = e.peer.mem.read x)
    (hpart : ∀ n stored o, (e.peer.receiveFailed n stored o bytes).mem.read x = e.peer.mem.read x) :
    (e.after (.txWrite bytes)).peer.mem.read x = e.peer.mem.read x := by
  obtain h | h | h := Env.after_txWrite_mem e bytes <;> rw [h]
  · rw [Peer.afterExecute_mem, hwhole]
  · exact hpart _ _ _

/-- At a frame start the preamble, arrived whole or in part, changes no memory. -/
theorem keepsMemory_preamble {s t : State} (h : t.env = s.env.after (.txWrite preamble)) (hi : s.env.peer.inbuf = [])
    (he : s.env.peer.expectBody = false) : KeepsMemory s t := by
  intro x
  rw [h]
  refine read_after_txWrite (fun o => ?_) (fun n stored o => ?_)
  · rw [Peer.receive_preamble o hi he]
  · rw [Peer.receiveFailed, Peer.failedTarget_frameStart he]
    simp only [Peer.receive_preamble_part o hi he]

/-- A write inside the address space, once performed, has changed no byte outside its range. -/
theorem Peer.perform_write_read_outside {o : OpenFrame} {p : Peer} {a : Addr} {d : Bytes}
    (hr : a.toNat + d.length ≤ 16777216) {x : Nat} (hx : x < a.toNat ∨ a.toNat + d.length ≤ x) :
    (p.perform o (.cmdWriteMem a d)).mem.read x = p.mem.read x := by
  have hin : inRange a d.length = true := decide_eq_true hr
  simp only [Peer.perform, hin, if_true]
  exact Memory.read_writeBytes_outside _ hx

/-- The bytes of memory a body can change: none for a body that is no write, and those of its range for a write inside the
address space. -/
abbrev Untouched (i : Instr) (x : Nat) : Prop :=
  ∀ a d, i = .cmdWriteMem a d → a.toNat + d.length ≤ 16777216 ∧ (x < a.toNat ∨ a.toNat + d.length ≤ x)

theorem Peer.perform_read_untouched {o : OpenFrame} {p : Peer} {i : Instr} {x : Nat} (h : Untouched i x) :
    (p.perform o i).mem.read x = p.mem.read x := by
  cases i with
  | cmdWriteMem a d =>
    obtain ⟨hr, hx⟩ := h a d rfl
    exact Peer.perform_write_read_outside hr hx
  | _ => rfl

section

variable {p : Peer} {i : Instr} {body : Bytes} {x : Nat}

/-- Whatever part of an awaited body arrives, only a write's range changes. -/
theorem Peer.receive_take_read (hw : i.wf = true) (hb : encodeBody i = some body) (hi : p.inbuf = [])
    (he : p.expectBody = true) (hx : Untouched i x) (o : Nat → OpenFrame) (n : Nat) :
    (p.receive o (body.take n)).mem.read x = p.mem.read x := by
  by_cases hn : n < body.length
  · rw [Peer.receive_incomplete o hi he (decodeBody_take_incomplete hw hb hn)]
  · rw [List.take_of_length_le (Nat.le_of_not_lt hn), Peer.receive_body o hi he (decodeBody_encodeBody hw hb),
      Peer.perform_read_untouched hx]

/-- The same of a body whose `TxWrite` failed on its way (R144, I3). -/
theorem Peer.receiveFailed_read (hw : i.wf = true) (hb : encodeBody i = some body) (hi : p.inbuf = [])
    (he : p.expectBody = true) (hx : Untouched i x) (n : Nat) (stored : Nat → Bool) (o : Nat → OpenFrame) :
    (p.receiveFailed n stored o body).mem.read x = p.mem.read x := by
  unfold Peer.receiveFailed
  rw [Peer.failedTarget_body hi he (decodeBody_encodeBody hw hb)]
  cases i with
  | cmdWriteMem a d =>
    obtain ⟨hr, hout⟩ := hx a d rfl
    simp only
    rw [Peer.receive_take_read hw hb _ _ hx, Peer.failedWrite_read_outside _ _ _ hr hout]
    · exact hi
    · exact he
  | _ => exact Peer.receive_take_read hw hb hi he hx o n

end

/-- With the peer waiting for the body, only a write's range changes, on every outcome. -/
theorem read_after_body {e : Env} {i : Instr} {body : Bytes} {x : Nat} (hw : i.wf = true) (hb : encodeBody i = some body)
    (hi : e.peer.inbuf = []) (he : e.peer.expectBody = true) (hx : Untouched i x) :
    (e.after (.txWrite body)).peer.mem.read x = e.peer.mem.read x := by
  refine read_after_txWrite (fun o => ?_) (fun n stored o => Peer.receiveFailed_read hw hb hi he hx n stored o)
  simpa using Peer.receive_take_read hw hb hi he hx o body.length

/-- Settles O38: a step's environment is the one after its phase's primitive, and only a `TxWrite` reaches memory. -/
theorem wireCommandMemoryFrame : Obligations.WireCommandMemoryFrame := by
  intro i body s t hw hb h
  have henv := exec_wire_env hb h
  refine ⟨fun hboard => ?_, fun hpre hbody x => ?_, fun hp hi he => ?_, fun hp hi he => ?_⟩
  · rw [henv, Env.after_peer_unconstrained hboard]
  · rw [henv, Env.after_mem]
    intro bytes
    cases hp : s.phase <;> simp_all [phasePrim]
  · rw [hp] at henv
    exact keepsMemory_preamble henv hi he
  · have hread : ∀ x, Untouched i x → t.env.peer.mem.read x = s.env.peer.mem.read x := by
      intro x hx
      rw [hp, phasePrim, hb, Option.getD_some] at henv
      rw [henv, read_after_body hw hb hi he hx]
    cases i with
    | cmdWriteMem a d =>
      intro hr x hx
      refine hread x fun a' d' heq => ?_
      cases heq
      exact ⟨hr, hx⟩
    | _ => exact fun x => hread x fun a d => Instr.noConfusion

end Sys2Proof.Machine
end

section
/-! A step never reads the last outcome, `REFUSED` or the ports' histories: it commutes with putting a past before the state
it starts from. -/

namespace Sys2Proof.Machine

open Sys2Proof.Safety

/-- The second state with the first one's past put before it: its histories follow, the outcome is the past's until a
response of its own, and `REFUSED` is set if either has it set. -/
def State.before (past s : State) : State :=
  { s with
    result := bif s.responses.isEmpty then past.result else s.result
    rdata := bif s.responses.isEmpty then past.rdata else s.rdata
    refused := past.refused || s.refused
    responses := past.responses ++ s.responses
    trace := past.trace ++ s.trace }

/-- A state is its own past before its blanked self. -/
theorem before_blankOutcome (s : State) : s.before (blankOutcome s) = s := by
  simp [State.before, blankOutcome]

/-- An update that does not read the past: it may as well be made before the past is put there. -/
abbrev IgnoresPast (f : State → State) : Prop := ∀ past s : State, f (past.before s) = past.before (f s)

/-! ### The shared operations -/

theorem ignoresPast_issue (p : Prim) : IgnoresPast (State.issue p) := by
  intro past s
  simp [State.before, State.issue]

theorem ignoresPast_finish (r : BitVec 32) (d : Bytes) : IgnoresPast (State.finish r d) := by
  intro past s
  have hne : (s.responses ++ [Response.mk r d]).isEmpty = false := by simp
  simp [State.before, State.finish, hne]

theorem ignoresPast_raise (e : OpError) : IgnoresPast (State.raise e) :=
  fun past s => ignoresPast_finish _ [] past s

theorem ignoresPast_refuse : IgnoresPast State.refuse := by
  intro past s
  simp [State.before, State.refuse, State.takeCommand]

theorem ignoresPast_setFault : IgnoresPast State.setFault := fun _ _ => rfl

theorem ignoresPast_startExchange (x : XOp) : IgnoresPast (State.startExchange x) := fun _ _ => rfl

theorem ignoresPast_whenConnected {f : State → State} (hf : IgnoresPast f) : IgnoresPast (State.whenConnected f) := by
  intro past s
  have hc : (past.before s).conn = s.conn := rfl
  simp only [State.whenConnected, hc]
  split
  · exact hf past s
  · exact ignoresPast_raise .notConnected past s

/-! ### The command port -/

theorem ignoresPast_openPort (p : PortId) : IgnoresPast (State.openPort p) := by
  intro past s
  have he : (past.before s).env = s.env := rfl
  have ht : (past.before s).takeCommand = past.before s.takeCommand := rfl
  simp only [State.openPort, he, ht, ignoresPast_issue]
  split
  · exact ignoresPast_finish resultOk [] past { s.takeCommand.issue (.tOpen p Config.baud Config.flow) with
      portId := p, thandle := some { port := p }, conn := .connected }
  · exact ignoresPast_raise _ past _
  · rfl

theorem ignoresPast_closePort : IgnoresPast State.closePort := by
  intro past s
  have ht : (past.before s).takeCommand = past.before s.takeCommand := rfl
  simp only [State.closePort, ht, ignoresPast_issue]
  exact ignoresPast_finish resultOk [] past
    { s.takeCommand.issue .tClose with thandle := none, conn := .disconnected }

theorem ignoresPast_hostBody (i : Instr) : IgnoresPast (hostBody i) := by
  intro past s
  have hc : (past.before s).conn = s.conn := rfl
  cases i <;> simp only [hostBody, hc]
  case hostOpen p =>
    split
    · exact ignoresPast_refuse past s
    · exact ignoresPast_openPort p past s
  case hostClose =>
    split
    · exact ignoresPast_closePort past s
    · exact ignoresPast_setFault past s
  case hostSynchronize => exact ignoresPast_whenConnected (ignoresPast_startExchange .sync) past s.takeCommand
  case hostReadMemory a n =>
    exact ignoresPast_whenConnected (ignoresPast_startExchange .read) past (s.takeCommand.latchRead a n)
  case hostWriteMemory a d =>
    split
    · exact ignoresPast_whenConnected (ignoresPast_startExchange .write) past (s.takeCommand.latchWrite a d)
    · exact ignoresPast_refuse past s
  case hostRunProgram v =>
    exact ignoresPast_whenConnected (fun _ _ => rfl) past (s.takeCommand.latchStart v)
  all_goals exact ignoresPast_refuse past s

/-! ### The exchange -/

theorem ignoresPast_startOf (i : Instr) : IgnoresPast (startOf i) := by
  cases i <;> exact fun _ _ => rfl

theorem ignoresPast_doneOf (i : Instr) (d : Bytes) : IgnoresPast (doneOf i d) := by
  intro past s
  have hr : (past.before s).runseq = s.runseq := rfl
  cases i <;> simp only [doneOf, State.complete]
  case cmdSync =>
    cases d with
    | nil => exact ignoresPast_finish resultOk [] past s
    | cons b rest =>
      simp only [State.checkSyncStatus]
      split
      · exact ignoresPast_finish resultOk [] past s
      · exact ignoresPast_raise _ past s
  case cmdWriteMem a w =>
    simp only [State.afterWrite, hr]
    split
    · rfl
    · exact ignoresPast_finish resultOk [] past s
    · exact ignoresPast_finish resultOk [] past s
  all_goals exact ignoresPast_finish resultOk _ past s

theorem ignoresPast_exchange (i : Instr) (isSync : Bool) : IgnoresPast (State.exchange i isSync (startOf i) (doneOf i)) := by
  intro past s
  have he : (past.before s).env = s.env := rfl
  have hp : (past.before s).phase = s.phase := rfl
  simp only [State.exchange, hp]
  split
  · exact ignoresPast_whenConnected (ignoresPast_startOf i) past s
  · simp only [State.sendPreamble, he, ignoresPast_issue]
    split
    · rfl
    · exact ignoresPast_raise _ past _
    · rfl
  · simp only [State.readAck, he, ignoresPast_issue]
    split
    · exact ignoresPast_raise _ past _
    · split
      · rfl
      · exact ignoresPast_raise _ past _
    · exact ignoresPast_raise _ past _
    · rfl
  · simp only [State.sendBody, he, ignoresPast_issue]
    split
    · split
      · exact ignoresPast_doneOf i _ past _
      · rfl
    · exact ignoresPast_raise _ past _
    · rfl
  · simp only [State.readResponse, he, ignoresPast_issue]
    split
    · split
      · exact ignoresPast_raise _ past _
      · exact ignoresPast_doneOf i _ past _
    · exact ignoresPast_raise _ past _
    · rfl

/-! ### The step -/

theorem act_before {f : State → State} (hf : IgnoresPast f) (past s : State) :
    act f (past.before s) = viewNext past.before (act f s) := by
  have hfault : (past.before s).fault = s.fault := rfl
  simp only [act, hfault, hf]
  split <;> rfl

theorem ignoresPast_accept {f : State → State} (hf : IgnoresPast f) :
    IgnoresPast (fun s => if s.busy then s else f s) := by
  intro past s
  have hb : (past.before s).busy = s.busy := rfl
  simp only [hb, hf]
  split <;> rfl

theorem fetch_ne_reset {s : State} (hr : s.resetReq = false) : s.fetch ≠ .reset := by
  simp only [State.fetch, hr, Bool.false_eq_true, if_false]
  repeat' split
  all_goals simp

/-- Outside reset a step takes no notice of the past before its state. -/
theorem step_before {s : State} (past : State) (hr : s.resetReq = false) :
    step (past.before s) = viewNext past.before (step s) := by
  have hfetch : (past.before s).fetch = s.fetch := rfl
  cases h : s.fetch with
  | reset => exact absurd h (fetch_ne_reset hr)
  | stop r => simp only [step, hfetch, h, viewNext]
  | wait => simp only [step, hfetch, h, viewNext]
  | run i =>
    simp only [step, hfetch, h]
    obtain ⟨c, he⟩ | ⟨body, hb⟩ := runnable_of_fetch h
    · rw [exec_host he, exec_host he]
      exact act_before (ignoresPast_accept (ignoresPast_hostBody i)) past s
    · rw [exec_wire hb, exec_wire hb]
      exact act_before (ignoresPast_exchange i _) past s

theorem viewNext_blankOutcome_before (past : State) (o : Host.Outcome State Fault Refusal) :
    viewNext blankOutcome (viewNext past.before o) = viewNext blankOutcome o := by
  cases o <;> rfl

/-- A reset forgets the outcome and keeps the histories. -/
theorem hwReset_eq_of_blankOutcome (s : State) :
    s.hwReset = { (blankOutcome s).hwReset with
      responses := s.responses, trace := s.trace ++ (blankOutcome s).hwReset.trace } := by
  have hc : (blankOutcome s).conn = s.conn := rfl
  simp only [State.hwReset, hc]
  split
  · rfl
  · simp [blankOutcome]

theorem hwReset_blankOutcome_responses (s : State) : (blankOutcome s).hwReset.responses = [] := by
  simp only [State.hwReset]
  split <;> rfl

/-- Settles O26: outside reset the step of the blanked state, with the past put before it, is the step; a reset reads neither
outcome nor histories. -/
theorem outcomeIsNotReadBack : Obligations.OutcomeIsNotReadBack := by
  intro s
  cases hr : s.resetReq with
  | true =>
    have hr' : (blankOutcome s).resetReq = true := hr
    rw [step_of_resetReq hr, step_of_resetReq hr']
    refine ⟨?_, fun t t' ht ht' => ?_⟩
    · rw [hwReset_eq_of_blankOutcome]
      rfl
    · cases ht
      cases ht'
      rw [hwReset_eq_of_blankOutcome, hwReset_blankOutcome_responses]
      simp
  | false =>
    have hstep : step s = viewNext s.before (step (blankOutcome s)) := by
      rw [← step_before s (s := blankOutcome s) hr, before_blankOutcome]
    refine ⟨by rw [hstep, viewNext_blankOutcome_before], fun t t' ht ht' => ?_⟩
    rw [hstep, ht', viewNext, Host.Outcome.next.injEq] at ht
    subst ht
    refine ⟨rfl, rfl, ?_, by simp [State.before]⟩
    cases hresp : t'.responses <;> simp [State.before, hresp]

end Sys2Proof.Machine
end

section
/-! A run of steps: an exchange whose primitives are answered ends within one step per phase, and what a whole Sync leaves. -/

namespace Sys2Proof.Machine

open Sys2Proof.Safety

/-! ### Runs -/

theorem run_succ {s t : State} (h : step s = .next t) (k : Nat) : core.run (k + 1) s = core.run k t := by
  have hcore : core.step s = .next t := h
  simp only [Host.Core.run, hcore]

theorem run_one {s t : State} (h : step s = .next t) : core.run 1 s = .next t := run_succ h 0

/-! ### An exchange, answer by answer -/

/-- The primitives an exchange still issues at most (R121). -/
def primitivesLeft : Phase → Nat
  | .idle => 0
  | .txPre => 4
  | .rxAck => 3
  | .txBody => 2
  | .rxResp => 1

theorem primitivesLeft_nextPhase {p : Phase} (hp : p ≠ .idle) :
    primitivesLeft p = primitivesLeft (nextPhase p) + 1 := by
  cases p with
  | idle => exact absurd rfl hp
  | _ => rfl

theorem Prim.fit_ne_silent {p : Prim} {a : Answer} (h : a ≠ .silent) : p.fit a ≠ .silent := by
  cases p <;> cases a <;> simp_all [Prim.fit]

theorem step_inFlight {s : State} {i : Instr} (hr : s.resetReq = false) (hf : s.fault = false) (hp : s.phase ≠ .idle)
    (hi : s.inFlight = some i) : ∃ t, step s = .next t ∧ WireMove i s t := by
  obtain ⟨body, hb⟩ := encodeBody_inFlight hi
  refine ⟨_, ?_, wireMove_of_exchange hb hp⟩
  rw [step_of_fetch_run (fetch_inFlight hr hf hp hi), exec_wire hb, act_ok hf]

/-- The operation whose exchange carries `i` has ended, and left connection, operands, sticky bits and command port as they
were. -/
abbrev ExchangeEnded (i : Instr) (s t : State) : Prop :=
  EndedWith t.result t.rdata s t ∧ (∃ d, t.rdata = responseData i d) ∧ KeepsConnection s t ∧ KeepsOperands s t ∧
    KeepsSticky s t ∧ t.cmds = s.cmds

theorem responseData_nil (i : Instr) : responseData i [] = [] := by
  cases i <;> rfl

/-- With its primitive answered, an exchange that is not the first of a `runProgram` ends or goes on to the next phase. -/
theorem WireMove.ended_or_advanced {i : Instr} {s t : State} (h : WireMove i s t)
    (ha : s.env.answer (phasePrim i s.phase) ≠ .silent) (hr : s.runseq ≠ .regs) :
    ExchangeEnded i s t ∨
      (nextPhase s.phase ≠ .idle ∧ t = { s.issue (phasePrim i s.phase) with phase := nextPhase s.phase }) := by
  obtain ⟨hconn, hops, hsticky, hcmds, -⟩ := h.frame
  cases h with
  | pending hs => exact absurd hs ha
  | advance hadv => exact .inr ⟨nextPhase_ne_idle hadv, rfl⟩
  | fail e he =>
    exact .inl ⟨endedWith_issue_finish _ _ _ s, ⟨[], (responseData_nil i).symm⟩, hconn, hops, hsticky, hcmds⟩
  | badStatus b hi hb =>
    exact .inl ⟨endedWith_issue_finish _ _ _ s, ⟨[], (responseData_nil i).symm⟩, hconn, hops, hsticky, hcmds⟩
  | complete d hd => exact .inl ⟨endedWith_issue_finish _ _ _ s, ⟨d, rfl⟩, hconn, hops, hsticky, hcmds⟩
  | execute d hd hregs => exact absurd hregs hr

/-- An exchange that is not the first of a `runProgram` ends once the primitives it has left are answered. -/
theorem exchange_ends {i : Instr} {answers : List Answer} {more : List (Option Answer)} {s : State}
    (hr : s.resetReq = false) (hf : s.fault = false) (hi : s.inFlight = some i) (hregs : s.runseq ≠ .regs)
    (hp : s.phase ≠ .idle) (hlen : primitivesLeft s.phase = answers.length) (hs : Scripted answers more s)
    (hans : ∀ a ∈ answers, a ≠ .silent) :
    ∃ k t, k ≤ answers.length ∧ core.run k s = .next t ∧ ExchangeEnded i s t := by
  induction answers generalizing s with
  | nil => cases hph : s.phase <;> simp_all [primitivesLeft]
  | cons a rest ih =>
    obtain ⟨t, hstep, hm⟩ := step_inFlight hr hf hp hi
    have hanswer : s.env.answer (phasePrim i s.phase) ≠ .silent := by
      rw [Env.answer_scripted hs (phasePrim_ne_tClose i hp)]
      exact Prim.fit_ne_silent (hans a (by simp))
    obtain hend | ⟨hnext, rfl⟩ := hm.ended_or_advanced hanswer hregs
    · exact ⟨1, t, by simp, run_one hstep, hend⟩
    · have hscript : (s.env.after (phasePrim i s.phase)).script = rest.map some ++ more := by
        rw [Env.after_script _ (phasePrim_ne_tClose i hp), hs]
        rfl
      have hleft : primitivesLeft (nextPhase s.phase) = rest.length := by
        rw [primitivesLeft_nextPhase hp] at hlen
        simpa using hlen
      obtain ⟨k, t, hk, hrun, hend⟩ := ih (s := { s.issue (phasePrim i s.phase) with phase := nextPhase s.phase }) hr hf
        hi hregs hnext hleft hscript fun b hb => hans b (by simp [hb])
      exact ⟨k + 1, t, by simpa using hk, (run_succ hstep k).trans hrun, hend⟩

/-! ### A whole Sync -/

/-- Settles O53: the acceptance latches nothing, and the exchange that follows ends within its four answers. -/
theorem syncIsMemoryless : Obligations.SyncIsMemoryless := by
  intro s rest more a1 a2 a3 a4 hinv hready hs h1 h2 h3 h4
  obtain ⟨hc, hp, hr, hf, hreset, hcmds⟩ := hready
  obtain ⟨-, ⟨hidle, -⟩, -⟩ := hinv
  have hx : s.xop = .none := hidle.1 hp
  have haccept : step s = .next (s.takeCommand.startExchange .sync) := by
    rw [step_of_fetch_run (fetch_command hreset hf hp hcmds)]
    exact exec_of_starts .synchronize hf hp hc
  have hflight : (s.takeCommand.startExchange .sync).inFlight = some .cmdSync := by
    simp [State.inFlight, hr]
  obtain ⟨k, t, hk, hrun, hend, ⟨d, hd⟩, hconn, hops, hsticky, ht⟩ :=
    exchange_ends (s := s.takeCommand.startExchange .sync) (answers := [a1, a2, a3, a4]) hreset hf hflight
      (by simp [hr]) (by simp) rfl hs (by simp [h1, h2, h3, h4])
  refine ⟨k + 1, t, Nat.succ_le_succ hk, (run_succ haccept k).trans hrun, ?_, hconn, hops, ?_, hsticky, ?_⟩
  · rw [hd] at hend
    exact hend
  · obtain ⟨-, -, htp, htx, htr, -⟩ := hend
    exact ⟨htp.trans hp.symm, htx.trans hx.symm, htr.trans hr.symm⟩
  · rw [ht]
    simp [hcmds]

end Sys2Proof.Machine
end

section
/-! Target memory: its addresses on the wire, the opcodes that have no meaning, and what the reference peer does with each
frame. -/

namespace Sys2Proof

/-- Settles O1: the three address bytes decode to the address, and decoding is the little-endian sum. -/
theorem addressBytesAreLittleEndian : Obligations.AddressBytesAreLittleEndian := by
  intro a
  refine ⟨_, _, _, addr24_bytes a, rfl, rfl, rfl, ?_⟩
  rw [← dec24_toNat, dec24_of_bytes]

/-! ### Undefined opcodes -/

/-- An undefined opcode byte is the whole encoding of its row, and no body the block sends (R75). -/
theorem encode_of_undefinedRow {op : Byte} {i : Instr} (h : undefinedRow op = some i) :
    encode i = .body [op] ∧ encodeBody i = none := by
  have hall : ∀ op : Byte, (undefinedRow op).all (fun i => encode i = .body [op] ∧ encodeBody i = none) := by decide
  simpa [h] using hall op

/-- No undefined row is selected by the opcode of one of the four wire commands (R74). -/
theorem ne_opcode_of_undefinedRow {op : Byte} {i : Instr} (h : undefinedRow op = some i) :
    op ≠ opSync ∧ op ≠ opExec ∧ op ≠ opRead ∧ op ≠ opWrite := by
  refine ⟨?_, ?_, ?_, ?_⟩ <;> rintro rfl <;> cases h

/-- The opcode byte alone makes a body `INVALID` (R85). -/
theorem decodeBody_cons_of_undefinedRow {op : Byte} {i : Instr} (h : undefinedRow op = some i) (rest : Bytes) :
    decodeBody (op :: rest) = .invalid op := by
  obtain ⟨hsync, hexec, hread, hwrite⟩ := ne_opcode_of_undefinedRow h
  simp only [decodeBody, if_neg hsync, if_neg hexec, if_neg hread, if_neg hwrite]

namespace Machine

/-- A wire row without a body is refused by its opcode. -/
theorem exec_of_encodeBody_none {i : Instr} {op : Byte} (he : encode i = .body [op]) (hb : encodeBody i = none)
    (s : State) : exec i s = .refused (.undefinedOpcode op) := by
  cases i <;> simp only [encode, encodeBody, reduceCtorEq, Encoded.body.injEq, List.cons.injEq, and_true] at he hb <;>
    subst he <;> rfl

/-- Settles O49: the byte selects a row without a body, and the body decoder calls it `INVALID`. -/
theorem undefinedOpcodesHaveNoMeaning : Obligations.UndefinedOpcodesHaveNoMeaning := by
  intro op i h
  obtain ⟨he, hb⟩ := encode_of_undefinedRow h
  have hd := decodeBody_cons_of_undefinedRow h
  exact ⟨hb, hd, exec_of_encodeBody_none he hb, fun p o rest hbody hi => Peer.receive_invalid o hi hbody (hd rest)⟩

/-! ### Frames -/

theorem wf_cmdWriteMem {a : Addr} {d : Bytes} (hd : d.length ≤ 65535) : (Instr.cmdWriteMem a d).wf = true :=
  decide_eq_true hd

theorem Peer.perform_read_of_inRange (o : OpenFrame) (p : Peer) {a : Addr} {c : Half}
    (hr : a.toNat + c.toNat ≤ 16777216) :
    p.perform o (.cmdReadMem a c) = { p with q := p.q ++ Memory.readBytes p.mem a.toNat c.toNat } := by
  have hin : inRange a c.toNat = true := decide_eq_true hr
  simp only [Peer.perform, hin, if_true]

theorem Peer.perform_write_of_inRange (o : OpenFrame) (p : Peer) {a : Addr} {d : Bytes}
    (hr : a.toNat + d.length ≤ 16777216) :
    p.perform o (.cmdWriteMem a d) = { p with mem := Memory.writeBytes p.mem a.toNat d } := by
  have hin : inRange a d.length = true := decide_eq_true hr
  simp only [Peer.perform, hin, if_true]

theorem Peer.perform_write_past_end (o : OpenFrame) (p : Peer) {a : Addr} {d : Bytes}
    (hr : ¬ a.toNat + d.length ≤ 16777216) :
    p.perform o (.cmdWriteMem a d) = { p with mem := Memory.storeAll p.mem o.stores, q := p.q ++ o.answer } := by
  have hin : inRange a d.length = false := decide_eq_false hr
  simp only [Peer.perform, hin, Bool.false_eq_true, if_false]

/-- A peer that waits for a body performs the wire command whose body arrives, and stands at the next frame start. -/
theorem Peer.receive_encodeBody {p : Peer} {i : Instr} {body : Bytes} (o : Nat → OpenFrame) (hw : i.wf = true)
    (hb : encodeBody i = some body) (hi : p.inbuf = []) (he : p.expectBody = true) :
    p.receive o body = Peer.perform (o (body.length + 1)) { p with expectBody := false } i := by
  rw [Peer.receive_body o hi he (decodeBody_encodeBody hw hb), ← hi]

/-- Settles O57: the preamble is acknowledged, and each of the four bodies is performed. -/
theorem peerServesFrames : Obligations.PeerServesFrames := by
  intro p o hwf hi
  refine ⟨Peer.receive_preamble o hi, fun he => ⟨?_, fun a c => ?_, fun a d hd => ?_, ?_⟩⟩
  · exact Peer.receive_encodeBody (i := .cmdSync) o rfl rfl hi he
  · refine ⟨_, Peer.receive_encodeBody (i := .cmdReadMem a c) o rfl rfl hi he, fun hr => ?_⟩
    have hin : inRange a c.toNat = true := decide_eq_true hr
    rw [if_pos hin, Memory.readBytes_eq_map]
  · have hbody := Peer.receive_encodeBody (i := .cmdWriteMem a d) o (wf_cmdWriteMem hd) rfl hi he
    by_cases hr : a.toNat + d.length ≤ 16777216
    · rw [Peer.perform_write_of_inRange _ _ hr, ← List.append_nil p.q] at hbody
      refine ⟨_, [], hbody, fun _ => ⟨rfl, fun k hk => ?_, fun y hy => Memory.read_writeBytes_outside _ hy⟩⟩
      rw [Memory.read_writeBytes hwf hr, if_pos (by omega), Nat.add_sub_cancel_left]
    · rw [Peer.perform_write_past_end _ _ hr] at hbody
      exact ⟨_, _, hbody, fun h => absurd h hr⟩
  · have hrecord : (List.range 16).map (fun k => p.mem.read (0x7E00 + k)) =
        Memory.readBytes p.mem regblockBase.toNat regblockSize := (Memory.readBytes_eq_map p.mem 0x7E00 16).symm
    rw [hrecord]
    exact Peer.receive_encodeBody (i := .cmdExec) o rfl rfl hi he

end Machine

end Sys2Proof
end

section
/-! A `writeMemory` whose body failed on its way: each byte of its range is old or new (R144, I3). -/

namespace Sys2Proof.Machine

open Sys2Proof.Safety

theorem word_writeFailed (s : State) :
    (OpError.transport .writeFailed).word (decide (s.runseq = .exec)) = 0x00000009 + stageBit s := by
  simp [OpError.word, resultWord_eq_sum, TransportCause.code, gotByteField]

/-- A failed `TxWrite` reaches the fixture in part. -/
theorem Env.after_txWrite_ioError {e : Env} {bytes : Bytes} (hb : e.board = .reference)
    (ha : e.answer (.txWrite bytes) = .ioError) :
    (e.after (.txWrite bytes)).peer =
      e.peer.receiveFailed (Config.sentPrefix e.draws) (Config.storedNew e.draws) (Config.openFrame e.draws) bytes := by
  rw [Env.after_peer e (by simp), Env.peerAfter]
  simp only [hb, ha]

section

variable {a : Addr} {d : Bytes}

/-- A byte of the range of a write to `a` reads as in `m`, or has the value that `d` gives it. -/
abbrev OldOrNew (a : Addr) (d : Bytes) (m m' : Memory) : Prop :=
  ∀ k, k < d.length → a.toNat + k < 16777216 →
    m'.read (a.toNat + k) = m.read (a.toNat + k) ∨ m'.read (a.toNat + k) = d.getD k 0

/-- Stores that all lie before a range leave its bytes alone. -/
theorem read_storeAll_before (m : Memory) {stray : List (Addr × Byte)} (hs : ∀ c ∈ stray, c.1.toNat < a.toNat)
    (k : Nat) : (m.storeAll stray).read (a.toNat + k) = m.read (a.toNat + k) :=
  Memory.read_storeAll_outside m fun c hc => Nat.ne_of_gt (Nat.lt_add_right k (hs c hc))

/-- What a failed write has stored of its range is new, the rest of it old. -/
theorem Peer.failedWrite_oldOrNew {p : Peer} (hwf : p.mem.wf = true) (stored : Nat → Bool)
    {stray : List (Addr × Byte)} (hs : ∀ c ∈ stray, c.1.toNat < a.toNat) :
    OldOrNew a d p.mem (p.failedWrite stored stray a d).mem := by
  intro k hk hend
  have ha : a.toNat < 16777216 := a.isLt
  simp only [Peer.failedWrite]
  generalize hm : (if inRange a d.length then p.mem else Memory.storeAll p.mem stray) = m
  have hmwf : m.wf = true := by
    rw [← hm]
    split
    · exact hwf
    · exact Memory.storeAll_wf hwf stray
  have hmread : m.read (a.toNat + k) = p.mem.read (a.toNat + k) := by
    rw [← hm]
    split
    · rfl
    · exact read_storeAll_before _ hs k
  have hfit : a.toNat + (d.take (Config.addressSpace - a.toNat)).length ≤ Config.addressSpace := by
    rw [List.length_take, Config.addressSpace]
    omega
  obtain hold | ⟨-, -, hnew⟩ := Memory.read_writeSome (stored := stored) (i := 0) hmwf hfit (a.toNat + k)
  · exact .inl (hold.trans hmread)
  · refine .inr (hnew.trans ?_)
    have hlt : k < Config.addressSpace - a.toNat := Nat.lt_sub_of_add_lt (by rw [Nat.add_comm]; exact hend)
    rw [Nat.add_sub_cancel_left, List.getD_eq_getElem?_getD, List.getElem?_take_of_lt hlt, ← List.getD_eq_getElem?_getD]

/-- The body of the write, once it has arrived whole, leaves each byte of the range new, or as it was. -/
theorem Peer.perform_oldOrNew {p : Peer} (hwf : p.mem.wf = true) {o : OpenFrame}
    (hs : ∀ c ∈ o.stores, c.1.toNat < a.toNat) : OldOrNew a d p.mem (p.perform o (.cmdWriteMem a d)).mem := by
  intro k hk _
  by_cases hr : a.toNat + d.length ≤ 16777216
  · right
    rw [Peer.perform_write_of_inRange _ _ hr, Memory.read_writeBytes hwf hr, if_pos (by omega), Nat.add_sub_cancel_left]
  · left
    rw [Peer.perform_write_past_end _ _ hr, read_storeAll_before _ hs]

theorem OldOrNew.trans {m m' m'' : Memory} (h : OldOrNew a d m m') (h' : OldOrNew a d m' m'') : OldOrNew a d m m'' := by
  intro k hk hend
  obtain hk' | hk' := h' k hk hend
  · rw [hk']
    exact h k hk hend
  · exact .inr hk'

/-- The two things a failed `TxWrite` of the body does: the range takes old and new bytes, and the part of the body that
has arrived is parsed. -/
theorem Peer.receiveFailed_write {p : Peer} (hd : d.length ≤ 65535) (hi : p.inbuf = []) (he : p.expectBody = true)
    (sent : Nat) (stored : Nat → Bool) (o : Nat → OpenFrame) {body : Bytes}
    (hb : encodeBody (.cmdWriteMem a d) = some body) :
    ∃ o' : Nat → OpenFrame, (∀ k, ∀ c ∈ (o' k).stores, c.1.toNat < a.toNat) ∧
      p.receiveFailed sent stored o body = (p.failedWrite stored (o' 0).stores a d).receive o' (body.take sent) := by
  unfold Peer.receiveFailed
  rw [Peer.failedTarget_body hi he (decodeBody_encodeBody (wf_cmdWriteMem hd) hb)]
  refine ⟨_, fun k c hc => ?_, rfl⟩
  simp only [List.mem_filter, decide_eq_true_eq] at hc
  exact hc.2

theorem Peer.receiveFailed_oldOrNew {p : Peer} (hwf : p.mem.wf = true) (hd : d.length ≤ 65535) (hi : p.inbuf = [])
    (he : p.expectBody = true) (sent : Nat) (stored : Nat → Bool) (o : Nat → OpenFrame) {body : Bytes}
    (hb : encodeBody (.cmdWriteMem a d) = some body) : OldOrNew a d p.mem (p.receiveFailed sent stored o body).mem := by
  have hw : (Instr.cmdWriteMem a d).wf = true := wf_cmdWriteMem hd
  obtain ⟨o', hs, heq⟩ := Peer.receiveFailed_write hd hi he sent stored o hb
  have hfailed : OldOrNew a d p.mem (p.failedWrite stored (o' 0).stores a d).mem :=
    Peer.failedWrite_oldOrNew hwf stored (hs 0)
  generalize hp' : p.failedWrite stored (o' 0).stores a d = p' at heq hfailed
  have hi' : p'.inbuf = [] := hp' ▸ hi
  have he' : p'.expectBody = true := hp' ▸ he
  have hwf' : p'.mem.wf = true := hp' ▸ Peer.failedWrite_wf _ _ _ _ _ hwf
  rw [heq]
  by_cases hn : sent < body.length
  · rw [Peer.receive_incomplete o' hi' he' (decodeBody_take_incomplete hw hb hn)]
    exact hfailed
  · rw [List.take_of_length_le (Nat.le_of_not_lt hn), Peer.receive_encodeBody o' hw hb hi' he']
    exact hfailed.trans (Peer.perform_oldOrNew (p := { p' with expectBody := false }) hwf' (hs _))

end

/-- Settles O59: the I/O error is raised, and what reached the peer is the failed write and the part of the body that
arrived. -/
theorem failedWriteLeavesOldOrNew : Obligations.FailedWriteLeavesOldOrNew := by
  intro s a d hd hf hp hboard hi he hwf ha
  have hb : encodeBody (.cmdWriteMem a d) = some _ := rfl
  have herr : PhaseError (.cmdWriteMem a d) (decide (Instr.cmdWriteMem a d = .cmdSync)) .txBody .ioError
      (.transport .writeFailed) := by simp [PhaseError]
  obtain ⟨t, ht, hend, -, henv, -⟩ := exec_of_phaseError hb hf hp ha herr
  rw [word_writeFailed] at hend
  refine ⟨t, ht, hend, ?_, fun hr x hx => ?_⟩
  · have hpeer := Env.after_txWrite_ioError hboard ha
    rw [henv]
    exact hpeer ▸ Peer.receiveFailed_oldOrNew hwf hd hi he _ _ _ hb
  · obtain ⟨-, -, -, hframe⟩ := wireCommandMemoryFrame _ _ s t (wf_cmdWriteMem hd) hb ht
    exact hframe hp hi he hr x hx

end Sys2Proof.Machine
end

section
/-! Whole operations against the reference peer: a `writeMemory` and the `readMemory` after it (R66). -/

namespace Sys2Proof.Machine

open Sys2Proof.Safety

/-! ### Exchange steps that go on or complete -/

/-- The block runs the exchange of `i` and stands in phase `p` of it. -/
abbrev InExchange (i : Instr) (p : Phase) (s : State) : Prop :=
  s.resetReq = false ∧ s.fault = false ∧ s.phase = p ∧ s.inFlight = some i

section

variable {i : Instr} {p : Phase} {a : Answer} {s : State}

theorem step_eq_exchange (hp : p ≠ .idle) (hx : InExchange i p s) :
    step s = .next (s.exchange i (decide (i = .cmdSync)) (startOf i) (doneOf i)) := by
  obtain ⟨hr, hf, rfl, hi⟩ := hx
  obtain ⟨body, hb⟩ := encodeBody_inFlight hi
  rw [step_of_fetch_run (fetch_inFlight hr hf hp hi), exec_wire hb, act_ok hf]

theorem step_of_phaseAdvance (hx : InExchange i p s) (ha : s.env.answer (phasePrim i p) = a)
    (h : PhaseAdvance i p a) : step s = .next { s.issue (phasePrim i p) with phase := nextPhase p } := by
  obtain ⟨-, -, hp, -⟩ := id hx
  obtain ⟨x, rfl, rfl⟩ | ⟨rest, rfl, rfl⟩ | ⟨x, rfl, rfl, hn⟩ := h <;> rw [step_eq_exchange (by simp) hx] <;>
    simp only [phasePrim] at ha ⊢
  · simp only [State.exchange, hp, State.sendPreamble, ha, nextPhase]
  · simp only [State.exchange, hp, State.readAck, ha, nextPhase, if_true]
  · simp only [State.exchange, hp, State.sendBody, ha, nextPhase, if_neg hn]

theorem step_of_phaseDone {d : Bytes} (hx : InExchange i p s) (ha : s.env.answer (phasePrim i p) = a)
    (h : PhaseDone i p a d) : step s = .next (doneOf i d (s.issue (phasePrim i p))) := by
  obtain ⟨-, -, hp, -⟩ := id hx
  obtain ⟨x, rfl, rfl, hn, rfl⟩ | ⟨rfl, rfl, hlen⟩ := h <;> rw [step_eq_exchange (by simp) hx] <;>
    simp only [phasePrim] at ha ⊢
  · simp only [State.exchange, hp, State.sendBody, ha, if_pos hn]
  · simp only [State.exchange, hp, State.readResponse, ha, if_neg (Nat.not_lt.2 hlen)]

end

theorem run_add {s t : State} {k : Nat} (h : core.run k s = .next t) (j : Nat) : core.run (k + j) s = core.run j t := by
  induction k generalizing s with
  | zero =>
    cases h
    rw [Nat.zero_add]
  | succ k ih =>
    simp only [Host.Core.run] at h
    split at h
    · rename_i u hs
      rw [Nat.succ_add, run_succ hs, ih h]
    · cases h
    · cases h

/-! ### A frame against the reference peer -/

/-- The state once the sequencer stands in phase `p` and the port has moved on: this peer stands behind it, `n` primitives
have been drawn, and `tr` is its history. -/
def State.moved (p : Phase) (peer : Peer) (n : Nat) (tr : List Event) (s : State) : State :=
  { s with phase := p, trace := tr, env := { s.env with peer := peer, draws := n } }

/-- What a peer at a frame start makes of the body of `i`: memory `m`, and the response `x`, whole, with which the
operation is complete. -/
structure Served (i : Instr) (p : Peer) (m : Memory) (x : Bytes) : Prop where
  wf : i.wf = true
  notExec : encodeBody i ≠ some [opExec]
  perform : ∀ o, p.perform o i = { p with mem := m, q := p.q ++ x }
  length : x.length = responseLength i
  done : ∀ u : State, u.runseq = .none → doneOf i x u = u.complete x

section

variable {i : Instr} {p : Phase} {s : State} {m : Memory} {x : Bytes}

theorem InExchange.moved (h : InExchange i p s) (p' : Phase) (peer : Peer) (n : Nat) (tr : List Event) :
    InExchange i p' (s.moved p' peer n tr) := by
  obtain ⟨hr, hf, -, hi⟩ := h
  exact ⟨hr, hf, rfl, hi⟩

/-- An issued primitive that leaves `peer` behind the port moves the port on, and nothing else. -/
theorem InExchange.issue_eq_moved (h : InExchange i p s) {prim : Prim} {peer : Peer} {n : Nat}
    (hafter : s.env.after prim = { s.env with peer := peer, draws := n }) :
    s.issue prim = s.moved p peer n (s.issue prim).trace := by
  obtain ⟨-, -, rfl, -⟩ := h
  simp only [State.issue, State.moved, hafter]

theorem step_moved_of_phaseAdvance {a : Answer} {peer : Peer} {n : Nat} (hx : InExchange i p s)
    (ha : s.env.answer (phasePrim i p) = a) (h : PhaseAdvance i p a)
    (hafter : s.env.after (phasePrim i p) = { s.env with peer := peer, draws := n }) :
    ∃ tr, step s = .next (s.moved (nextPhase p) peer n tr) := by
  rw [step_of_phaseAdvance hx ha h, hx.issue_eq_moved hafter]
  exact ⟨_, rfl⟩

theorem step_moved_of_phaseDone {a : Answer} {d : Bytes} {peer : Peer} {n : Nat} (hx : InExchange i p s)
    (ha : s.env.answer (phasePrim i p) = a) (h : PhaseDone i p a d)
    (hafter : s.env.after (phasePrim i p) = { s.env with peer := peer, draws := n }) :
    ∃ tr, step s = .next (doneOf i d (s.moved p peer n tr)) := by
  rw [step_of_phaseDone hx ha h, hx.issue_eq_moved hafter]
  exact ⟨_, rfl⟩

/-- `TX_PRE`: the peer acknowledges the preamble. -/
theorem step_preamble (hx : InExchange i .txPre s) (hpeer : AgainstPeer s) (hstart : PeerAtFrameStart s) :
    ∃ n tr, step s = .next (s.moved .rxAck { s.env.peer with q := [ackByte], expectBody := true } n tr) := by
  obtain ⟨hb, hs, hl⟩ := hpeer
  obtain ⟨hq, hi, he⟩ := hstart
  obtain ⟨hwrite, hafter⟩ := Env.peer_txWrite hb hs hl preamble
  rw [Peer.afterExecute_other (by decide), Peer.receive_preamble _ hi he, hq, List.nil_append] at hafter
  exact ⟨_, step_moved_of_phaseAdvance hx hwrite (.inl ⟨_, rfl, rfl⟩) hafter⟩

/-- `RX_ACK`: the one byte queued is the ack. -/
theorem step_ack (hx : InExchange i .rxAck s) (hpeer : AgainstPeer s) (hq : s.env.peer.q = [ackByte]) :
    ∃ n tr, step s = .next (s.moved .txBody { s.env.peer with q := [] } n tr) := by
  obtain ⟨hb, hs, hl⟩ := hpeer
  obtain ⟨hread, hafter⟩ := Env.peer_rxRead hb hs hl 1
  rw [hq] at hread hafter
  exact ⟨_, step_moved_of_phaseAdvance hx hread (.inr (.inl ⟨_, rfl, rfl⟩)) hafter⟩

/-- The body arrives whole: the peer performs it and queues the response. -/
theorem Served.answer_body {e : Env} {body : Bytes} (h : Served i { e.peer with expectBody := false } m x)
    (hbody : encodeBody i = some body) (hb : e.board = .reference) (hs : e.script = []) (hl : e.peer.lost = false)
    (hq : e.peer.q = []) (hi : e.peer.inbuf = []) (he : e.peer.expectBody = true) :
    e.answer (.txWrite body) = .ok [] ∧ e.after (.txWrite body) =
      { e with peer := { e.peer with mem := m, q := x, expectBody := false }, draws := e.draws + 1 } := by
  obtain ⟨hwrite, hafter⟩ := Env.peer_txWrite hb hs hl body
  have hother : body ≠ [opExec] := fun heq => h.notExec (heq ▸ hbody)
  rw [Peer.afterExecute_other hother, Peer.receive_encodeBody _ h.wf hbody hi he, h.perform] at hafter
  exact ⟨hwrite, by simpa [hq] using hafter⟩

/-- `RX_RESP`: what is queued is the whole response. -/
theorem step_response (hx : InExchange i .rxResp s) (hpeer : AgainstPeer s)
    (hlen : s.env.peer.q.length = responseLength i) :
    ∃ n tr, step s = .next (doneOf i s.env.peer.q (s.moved .rxResp { s.env.peer with q := [] } n tr)) := by
  obtain ⟨hb, hs, hl⟩ := hpeer
  obtain ⟨hread, hafter⟩ := Env.peer_rxRead hb hs hl (responseLength i)
  rw [List.take_of_length_le hlen.le] at hread
  rw [List.drop_of_length_le hlen.le] at hafter
  exact ⟨_, step_moved_of_phaseDone hx hread (.inr ⟨rfl, rfl, hlen.ge⟩) hafter⟩

/-- The peer takes the body it waits for, and its response, where there is one, is read whole. -/
theorem run_body (hx : InExchange i .txBody s) (hpeer : AgainstPeer s) (hq : s.env.peer.q = [])
    (hi : s.env.peer.inbuf = []) (he : s.env.peer.expectBody = true)
    (hserved : Served i { s.env.peer with expectBody := false } m x) :
    ∃ k p n tr, core.run k s =
      .next (doneOf i x (s.moved p { s.env.peer with mem := m, q := [], expectBody := false } n tr)) := by
  obtain ⟨-, -, -, hflight⟩ := id hx
  obtain ⟨body, hbody⟩ := encodeBody_inFlight hflight
  obtain ⟨hb, hs, hl⟩ := id hpeer
  have hprim : phasePrim i .txBody = .txWrite body := by simp [phasePrim, hbody]
  obtain ⟨hwrite, hafter⟩ := hserved.answer_body hbody hb hs hl hq hi he
  rw [← hprim] at hwrite hafter
  by_cases hn : responseLength i = 0
  · obtain rfl : x = [] := List.eq_nil_of_length_eq_zero (hserved.length.trans hn)
    obtain ⟨tr, hstep⟩ := step_moved_of_phaseDone hx hwrite (.inl ⟨_, rfl, rfl, hn, rfl⟩) hafter
    exact ⟨1, _, _, tr, run_one hstep⟩
  · obtain ⟨tr, hstep⟩ := step_moved_of_phaseAdvance hx hwrite (.inr (.inr ⟨_, rfl, rfl, hn⟩)) hafter
    obtain ⟨n, tr', hresp⟩ := step_response
      (hx.moved .rxResp { s.env.peer with mem := m, q := x, expectBody := false } _ tr) hpeer hserved.length
    exact ⟨2, _, n, tr', (run_succ hstep 1).trans (run_one hresp)⟩

/-- An operation begun in `s` has succeeded with response `x`: `rest` stands at the port, the peer holds `m` and stands at
the next frame start. -/
abbrev Completed (rest : List Command) (x : Bytes) (m : Memory) (s t : State) : Prop :=
  EndedWith 0 x s t ∧ t.conn = s.conn ∧ t.fault = s.fault ∧ t.resetReq = s.resetReq ∧ t.cmds = rest ∧
    AgainstPeer t ∧ PeerAtFrameStart t ∧ t.env.peer.mem = m

/-- An exchange with the peer at a frame start completes its operation. -/
theorem exchange_completes (hx : InExchange i .txPre s) (hrun : s.runseq = .none) (hpeer : AgainstPeer s)
    (hstart : PeerAtFrameStart s) (hserved : Served i s.env.peer m x) :
    ∃ k t, core.run k s = .next t ∧ Completed s.cmds x m s t := by
  obtain ⟨hq, hi, he⟩ := id hstart
  obtain ⟨n1, tr1, h1⟩ := step_preamble hx hpeer hstart
  obtain ⟨n2, tr2, h2⟩ := step_ack
    (hx.moved .rxAck { s.env.peer with q := [ackByte], expectBody := true } n1 tr1) hpeer rfl
  have hsame : { s.env.peer with q := [], expectBody := false } = s.env.peer := by rw [← hq, ← he]
  obtain ⟨k, p, n3, tr3, h3⟩ := run_body
    (hx.moved .txBody { s.env.peer with q := [], expectBody := true } n2 tr2) hpeer rfl hi rfl
    (hsame.symm ▸ hserved)
  have hdone := h3.trans (congrArg Host.Outcome.next (hserved.done _ hrun))
  refine ⟨k + 2, _, ((run_succ h1 (k + 1)).trans (run_succ h2 k)).trans hdone, ?_⟩
  exact ⟨⟨rfl, rfl, rfl, rfl, rfl, rfl⟩, rfl, rfl, rfl, rfl, hpeer, ⟨rfl, hi, rfl⟩, rfl⟩

end

/-! ### Writing and reading back -/

/-- A write inside the address space is stored, and has no response. -/
theorem served_write {p : Peer} {a : Addr} {d : Bytes} (hd : d.length ≤ 65535) (hr : a.toNat + d.length ≤ 16777216) :
    Served (.cmdWriteMem a d) p (Memory.writeBytes p.mem a.toNat d) [] where
  wf := wf_cmdWriteMem hd
  notExec := by simp [encodeBody, opWrite, opExec]
  perform o := by rw [Peer.perform_write_of_inRange o p hr, List.append_nil]
  length := rfl
  done u hu := by simp [doneOf, State.afterWrite, hu]

/-- A read inside the address space is answered with the bytes held there. -/
theorem served_read {p : Peer} {a : Addr} {c : Half} (hr : a.toNat + c.toNat ≤ 16777216) :
    Served (.cmdReadMem a c) p p.mem (Memory.readBytes p.mem a.toNat c.toNat) where
  wf := rfl
  notExec := by simp [encodeBody, opRead, opExec]
  perform o := Peer.perform_read_of_inRange o p hr
  length := Memory.length_readBytes _ _ _
  done _ _ := rfl

theorem Memory.readBytes_writeBytes {m : Memory} {a : Nat} {d : Bytes} (hm : m.wf = true)
    (h : a + d.length ≤ Config.addressSpace) : Memory.readBytes (Memory.writeBytes m a d) a d.length = d := by
  rw [Memory.readBytes_eq_map]
  refine List.ext_getElem (by simp) fun k hk hk' => ?_
  rw [List.getElem_map, List.getElem_range, Memory.read_writeBytes hm h, if_pos (by omega), Nat.add_sub_cancel_left,
    List.getD_eq_getElem _ _ hk']

section

variable {s : State} {rest : List Command}

/-- An exchange operation that a connected block accepts completes with what the peer makes of its wire command. -/
theorem operation_completes {c : Command} {latch : State → State} {x : XOp} {w : Instr} {m : Memory} {d : Bytes}
    (hstarts : Starts (decodeCommand c) latch (State.startExchange x)) (hready : Ready c rest s)
    (hflight : ((latch s.takeCommand).startExchange x).inFlight = some w) (hpeer : AgainstPeer s)
    (hstart : PeerAtFrameStart s) (hserved : Served w s.env.peer m d) :
    ∃ k t, core.run k s = .next t ∧ Completed rest d m s t := by
  obtain ⟨hc, hp, hrun, hf, hreset, hcmds⟩ := hready
  have haccept : step s = .next ((latch s.takeCommand).startExchange x) := by
    rw [step_of_fetch_run (fetch_command hreset hf hp hcmds), exec_of_starts hstarts hf hp hc]
  obtain ⟨⟨hlconn, -⟩, ⟨hlfault, -⟩, ⟨-, -, hlresp⟩, ⟨-, hlenv⟩, ⟨-, -, hlrun⟩, hlcmds, hlreset⟩ :=
    hstarts.latch_frame s.takeCommand
  have henv : ((latch s.takeCommand).startExchange x).env = s.env := hlenv
  obtain ⟨k, t, hk, hend, hconn, hfault, hres, htcmds, hrest⟩ := exchange_completes
    (s := (latch s.takeCommand).startExchange x) ⟨hlreset.trans hreset, hlfault.trans hf, rfl, hflight⟩
    (hlrun.trans hrun) (by rwa [AgainstPeer, henv]) (by rwa [PeerAtFrameStart, henv]) (by rwa [henv])
  refine ⟨k + 1, t, (run_succ haccept k).trans hk, ?_, hconn.trans hlconn, hfault.trans hlfault, hres.trans hlreset,
    ?_, hrest⟩
  · simpa [EndedWith, hlresp] using hend
  · rw [htcmds, State.startExchange_cmds, hlcmds, State.takeCommand_cmds, hcmds, List.tail_cons]

/-- A `writeMemory` inside the address space is stored. -/
theorem writeMemory_completes {a : Addr} {d : Bytes} (hready : Ready (cmdWriteMemory a d) rest s)
    (hd : d.length ≤ 65535) (hr : a.toNat + d.length ≤ 16777216) (hpeer : AgainstPeer s) (hstart : PeerAtFrameStart s) :
    ∃ k t, core.run k s = .next t ∧ Completed rest [] (Memory.writeBytes s.env.peer.mem a.toNat d) s t := by
  obtain ⟨-, -, hrun, -⟩ := id hready
  exact operation_completes (c := cmdWriteMemory a d) (.writeMemory a d hd) hready (by simp [State.inFlight, hrun])
    hpeer hstart (served_write hd hr)

/-- A `readMemory` inside the address space returns what the peer holds there. -/
theorem readMemory_completes {a : Addr} {c : Half} (hready : Ready (cmdReadMemory a c) rest s)
    (hr : a.toNat + c.toNat ≤ 16777216) (hpeer : AgainstPeer s) (hstart : PeerAtFrameStart s) :
    ∃ k t, core.run k s = .next t ∧
      Completed rest (Memory.readBytes s.env.peer.mem a.toNat c.toNat) s.env.peer.mem s t := by
  obtain ⟨-, -, hrun, -⟩ := id hready
  exact operation_completes (c := cmdReadMemory a c) (.readMemory a c) hready (by simp [State.inFlight, hrun]) hpeer
    hstart (served_read hr)

end

/-! ### A board that is not the reference peer -/

/-- A connected block whose Caller writes `01` to address 0 and reads it back, behind an unconstrained board whose answer to
the read is `02`. -/
def forgetfulBoardRun : State :=
  { State.reset with
    conn := .connected, portId := 7, thandle := some { port := 7 }
    cmds := [cmdWriteMemory 0 [0x01], cmdReadMemory 0 1]
    env := { Env.initial with
      script := [.ok [], .ok [0xCC], .ok [], .ok [], .ok [0xCC], .ok [], .ok [0x02]].map some } }

theorem forgetfulBoardRun_responses :
    ∃ t, core.run 9 forgetfulBoardRun = .next t ∧ t.responses = [⟨0, []⟩, ⟨0, [0x02]⟩] :=
  ⟨_, rfl, rfl⟩

/-- Settles O58: against the peer the write is stored and the read returns it; another board may answer the
read otherwise. -/
theorem writeThenReadRoundTrip : Obligations.WriteThenReadRoundTrip := by
  refine ⟨fun s a d rest hd hr hready hpeer hstart hwf => ?_, ?_⟩
  · obtain ⟨hc, -, -, hf, hreset, -⟩ := id hready
    obtain ⟨k, t, hk, ⟨-, -, htp, -, htrun, htresp⟩, htc, htf, htreset, htcmds, htpeer, htstart, hmem⟩ :=
      writeMemory_completes hready hd hr hpeer hstart
    have hlen := toNat_length hd
    obtain ⟨j, u, hj, ⟨hures, hurdata, hup, -, -, huresp⟩, -, -, -, hucmds, -⟩ := readMemory_completes
      ⟨htc.trans hc, htp, htrun, htf.trans hf, htreset.trans hreset, htcmds⟩ (by rwa [hlen]) htpeer htstart
    rw [hmem, hlen, Memory.readBytes_writeBytes hwf hr] at hurdata huresp
    refine ⟨k + j, u, (run_add hk j).trans hj, hup, hucmds, hures, hurdata, ?_⟩
    rw [huresp, htresp, List.append_assoc]
    rfl
  · obtain ⟨t, ht, hresp⟩ := forgetfulBoardRun_responses
    exact ⟨forgetfulBoardRun, t, 0, [0x01], [0x02], 9, by decide, by decide, rfl, ht, hresp, by decide⟩

end Sys2Proof.Machine
end

section
/-! The body codec: the fields of a body, which verdict the decoder gives, and where a body ends. -/

namespace Sys2Proof

open Sys2Proof.Machine
open Sys2Proof.Safety

/-! ### Fields -/

/-- Settles O3: every field of the block but the start address is a constant. -/
theorem registerBlockBytes : Obligations.RegisterBlockBytes := by
  intro v
  rfl

/-- Settles O2: the field decoders are the little-endian sums, and each undoes its encoder. -/
theorem fieldDecodingInvertsEncoding : Obligations.FieldDecodingInvertsEncoding := by
  refine ⟨dec16_toNat, dec24_toNat, fun a c => ?_, fun a d hd => ?_⟩
  · exact ⟨_, _, _, _, _, by rw [addr24_bytes]; rfl, dec24_of_bytes a, dec16_of_bytes c⟩
  · refine ⟨_, _, _, _, _, by rw [encodeBody, addr24_bytes]; rfl, dec24_of_bytes a, ?_⟩
    rw [dec16_of_bytes, toNat_length hd]

/-! ### Opcodes -/

/-- A byte that selects no undefined row is one of the four defined opcodes (R74). -/
theorem defined_of_undefinedRow_none {op : Byte} (h : undefinedRow op = none) :
    op = 0x00 ∨ op = 0x02 ∨ op = 0x03 ∨ op = 0x05 := by
  have hall : ∀ op : Byte, undefinedRow op = none → op = 0x00 ∨ op = 0x02 ∨ op = 0x03 ∨ op = 0x05 := by decide
  exact hall op h

/-- Settles O9: a row without a body is selected by every opcode but the four defined ones. -/
theorem everyOpcodeHasOneRow : Obligations.EveryOpcodeHasOneRow := by
  intro op
  cases h : undefinedRow op with
  | none => exact .inl ⟨defined_of_undefinedRow_none h, rfl⟩
  | some i =>
    obtain ⟨hsync, hexec, hread, hwrite⟩ := ne_opcode_of_undefinedRow h
    exact .inr ⟨hsync, hwrite, hread, hexec, i, rfl, encode_of_undefinedRow h⟩

/-! ### The verdicts of the body decoder -/

/-- The verdict of the body decoder on each kind of byte sequence (R85). -/
inductive BodyVerdict : Bytes → Verdict → Prop
  | empty : BodyVerdict [] .incomplete
  | sync (rest : Bytes) : BodyVerdict (opSync :: rest) (.command .cmdSync 1)
  | exec (rest : Bytes) : BodyVerdict (opExec :: rest) (.command .cmdExec 1)
  | read (a0 a1 a2 c0 c1 : Byte) (tail : Bytes) :
      BodyVerdict (opRead :: a0 :: a1 :: a2 :: c0 :: c1 :: tail)
        (.command (.cmdReadMem (dec24 a0 a1 a2) (dec16 c0 c1)) 6)
  | shortRead (rest : Bytes) (hlen : rest.length < 5) : BodyVerdict (opRead :: rest) .incomplete
  | write (a0 a1 a2 n0 n1 : Byte) (tail : Bytes) (hlen : (dec16 n0 n1).toNat ≤ tail.length) :
      BodyVerdict (opWrite :: a0 :: a1 :: a2 :: n0 :: n1 :: tail)
        (.command (.cmdWriteMem (dec24 a0 a1 a2) (tail.take (dec16 n0 n1).toNat)) (6 + (dec16 n0 n1).toNat))
  | shortData (a0 a1 a2 n0 n1 : Byte) (tail : Bytes) (hlen : tail.length < (dec16 n0 n1).toNat) :
      BodyVerdict (opWrite :: a0 :: a1 :: a2 :: n0 :: n1 :: tail) .incomplete
  | shortWrite (rest : Bytes) (hlen : rest.length < 5) : BodyVerdict (opWrite :: rest) .incomplete
  | undefined (op : Byte) (rest : Bytes) (hne : op ≠ opSync ∧ op ≠ opExec ∧ op ≠ opRead ∧ op ≠ opWrite) :
      BodyVerdict (op :: rest) (.invalid op)

/-- A list that does not begin with five elements is shorter. -/
theorem length_lt_five_of_forall_ne_cons {α : Type} {l : List α} (h : ∀ a b c d e t, l ≠ a :: b :: c :: d :: e :: t) :
    l.length < 5 := by
  rcases l with _ | ⟨a, _ | ⟨b, _ | ⟨c, _ | ⟨d, _ | ⟨e, t⟩⟩⟩⟩⟩
  case cons.cons.cons.cons.cons => exact absurd rfl (h a b c d e t)
  all_goals simp

theorem bodyVerdict_decodeBody (s : Bytes) : BodyVerdict s (decodeBody s) := by
  unfold decodeBody
  split
  · exact .empty
  rename_i op rest
  split
  · subst op
    exact .sync rest
  split
  · subst op
    exact .exec rest
  split
  · subst op
    split
    · exact .read _ _ _ _ _ _
    · exact .shortRead rest (length_lt_five_of_forall_ne_cons ‹_›)
  split
  · subst op
    split
    · simp only
      split
      · exact .shortData _ _ _ _ _ _ ‹_›
      · exact .write _ _ _ _ _ _ (Nat.le_of_not_lt ‹_›)
    · exact .shortWrite rest (length_lt_five_of_forall_ne_cons ‹_›)
  · exact .undefined op rest ⟨‹_›, ‹_›, ‹_›, ‹_›⟩

/-- Where the decoder calls for more bytes (R85). -/
theorem decodeBody_eq_incomplete_iff (s : Bytes) :
    decodeBody s = .incomplete ↔
      s = [] ∨ (s.head? = some opRead ∧ s.length < 6) ∨
      (s.head? = some opWrite ∧ (s.length < 6 ∨ s.length < 6 + (dec16 (s.getD 4 0) (s.getD 5 0)).toNat)) := by
  have hv := bodyVerdict_decodeBody s
  generalize decodeBody s = v at hv
  cases hv with
  | empty => simp
  | sync rest | exec rest => simp [opSync, opExec, opRead, opWrite]
  | read a0 a1 a2 c0 c1 tail => simp [opRead, opWrite]
  | shortRead rest hlen => simp [opRead, opWrite, Nat.succ_lt_succ hlen]
  | write a0 a1 a2 n0 n1 tail hlen =>
    have hfit : ¬ tail.length + 6 < 6 + (dec16 n0 n1).toNat := by omega
    simp [opRead, opWrite, hfit]
  | shortData a0 a1 a2 n0 n1 tail hlen =>
    have hshort : tail.length + 6 < 6 + (dec16 n0 n1).toNat := by omega
    simp [opRead, opWrite, hshort]
  | shortWrite rest hlen => simp [opRead, opWrite, Nat.succ_lt_succ hlen]
  | undefined op rest hne => simp [hne]

/-- The opcodes that the decoder calls `INVALID` (R85). -/
theorem decodeBody_eq_invalid_iff (s : Bytes) (op : Byte) :
    decodeBody s = .invalid op ↔
      s.head? = some op ∧ op ≠ opSync ∧ op ≠ opWrite ∧ op ≠ opRead ∧ op ≠ opExec := by
  have hv := bodyVerdict_decodeBody s
  generalize decodeBody s = v at hv
  cases hv with
  | undefined op' rest hne =>
    obtain ⟨hsync, hexec, hread, hwrite⟩ := hne
    simp only [Verdict.invalid.injEq, List.head?_cons, Option.some.injEq]
    exact ⟨fun h => ⟨h, h ▸ ⟨hsync, hwrite, hread, hexec⟩⟩, And.left⟩
  | empty => simp
  | _ => simp +contextual [eq_comm]

/-- The command that the decoder takes from the front of a sequence, and how many bytes of it (R85). -/
theorem decodeBody_command {s : Bytes} {i : Instr} {k : Nat} (h : decodeBody s = .command i k) :
    k ≤ s.length ∧
    ((s.head? = some opSync ∧ i = .cmdSync ∧ k = 1) ∨
     (s.head? = some opExec ∧ i = .cmdExec ∧ k = 1) ∨
     (s.head? = some opRead ∧ k = 6 ∧
        i = .cmdReadMem (dec24 (s.getD 1 0) (s.getD 2 0) (s.getD 3 0)) (dec16 (s.getD 4 0) (s.getD 5 0))) ∨
     (s.head? = some opWrite ∧ k = 6 + (dec16 (s.getD 4 0) (s.getD 5 0)).toNat ∧
        i = .cmdWriteMem (dec24 (s.getD 1 0) (s.getD 2 0) (s.getD 3 0)) ((s.take k).drop 6))) := by
  have hv := bodyVerdict_decodeBody s
  rw [h] at hv
  cases hv with
  | sync rest => exact ⟨Nat.le_add_left 1 _, .inl ⟨rfl, rfl, rfl⟩⟩
  | exec rest => exact ⟨Nat.le_add_left 1 _, .inr (.inl ⟨rfl, rfl, rfl⟩)⟩
  | read a0 a1 a2 c0 c1 tail => exact ⟨Nat.le_add_left 6 _, .inr (.inr (.inl ⟨rfl, rfl, rfl⟩))⟩
  | write a0 a1 a2 n0 n1 tail hlen =>
    refine ⟨?_, .inr (.inr (.inr ⟨rfl, rfl, ?_⟩))⟩
    · simp only [List.length_cons]
      omega
    · rw [Nat.add_comm]
      rfl

/-- Settles O6: the three kinds of verdict, and the round trip. -/
theorem bodyDecoderVerdicts : Obligations.BodyDecoderVerdicts := by
  intro s
  exact ⟨decodeBody_eq_incomplete_iff s, decodeBody_eq_invalid_iff s, fun _ _ => decodeBody_command,
    fun _ => decodeBody_encodeBody⟩

/-! ### Where a body ends -/

/-- The body decoder looks at no byte after those it takes (R87). -/
theorem decodeBody_append {s : Bytes} {i : Instr} {k : Nat} (h : decodeBody s = .command i k) (rest : Bytes) :
    decodeBody (s ++ rest) = .command i k := by
  have hv := bodyVerdict_decodeBody s
  rw [h] at hv
  cases hv with
  | sync tail | exec tail | read a0 a1 a2 c0 c1 tail => rfl
  | write a0 a1 a2 n0 n1 tail hlen =>
    simp [decodeBody, opSync, opExec, opRead, opWrite, Nat.not_lt.2 (Nat.le_add_right_of_le hlen),
      List.take_append_of_le_length hlen]

/-- Settles O5: the decoder takes the body whole, whatever follows it. -/
theorem bodyRoundTripWithTail : Obligations.BodyRoundTripWithTail := by
  intro i body rest hw hb
  exact decodeBody_append (decodeBody_encodeBody hw hb) rest

/-- Settles O8: the decoder gives a body and its continuation the same verdict, and takes both whole. -/
theorem bodiesArePrefixFree : Obligations.BodiesArePrefixFree := by
  rintro i j b c rest hwi hwj hb hc rfl
  have hi : decodeBody (b ++ rest) = .command i b.length := bodyRoundTripWithTail i b rest hwi hb
  have hj : decodeBody (b ++ rest) = .command j (b ++ rest).length := decodeBody_encodeBody hwj hc
  rw [hi, Verdict.command.injEq, List.length_append] at hj
  obtain ⟨hij, hlen⟩ := hj
  exact ⟨hij, List.eq_nil_of_length_eq_zero (by omega)⟩

/-! ### The four bodies -/

/-- Settles O7: a row has the body of its own case, or none; in flight the data fit the length field. -/
theorem onlyFourBodies : Obligations.OnlyFourBodies := by
  refine ⟨fun i body hw => ?_, fun s i hinv hi => ?_⟩
  · cases i with
    | cmdSync | cmdExec => simp [encodeBody, opSync, opExec, eq_comm]
    | cmdReadMem a c => simp [encodeBody, opRead, eq_comm]
    | cmdWriteMem a d =>
      have hd : d.length ≤ 65535 := of_decide_eq_true hw
      simp [encodeBody, opWrite, hd, eq_comm]
    | _ => simp [encodeBody]
  · obtain ⟨-, -, -, -, ⟨hdata, -⟩, -⟩ := hinv
    exact ⟨wf_inFlight hdata hi, encodeBody_inFlight hi⟩

/-- Settles O11: the body decoder evaluates each of the six words. -/
theorem sampleWordsDecode : Obligations.SampleWordsDecode := by
  unfold Obligations.SampleWordsDecode
  decide

end Sys2Proof
end

section
/-! Exchange steps that go on or complete, answer by answer, and a whole `runProgram` (R161). -/

namespace Sys2Proof.Machine

open Sys2Proof.Safety

/-! ### The `RESULT` words of a wrong ack and a wrong status -/

theorem word_badAck (i : Instr) (b : Byte) (s : State) :
    (OpError.protocol (decide (i = .cmdSync)) (.badAck b)).word (decide (s.runseq = .exec)) =
      failureKind i + stageBit s + gotByteField b := by
  simp only [OpError.word, resultWord_eq_sum, ProtocolCause.code, ProtocolCause.gotByte, ProtocolCause.gotCount]
  by_cases h : i = .cmdSync <;> simp [failureKind, gotCountField, h]

theorem word_badStatus (b : Byte) (s : State) :
    (OpError.protocol true (.badStatus b)).word (decide (s.runseq = .exec)) =
      0x00000013 + stageBit s + gotByteField b := by
  simp [OpError.word, resultWord_eq_sum, ProtocolCause.code, ProtocolCause.gotByte, ProtocolCause.gotCount,
    gotCountField]

/-! ### A wire command in one phase of its exchange -/

section

variable {i : Instr} {body : Bytes} {s : State} {p : Phase} {a : Answer}

/-- An exchange goes on, ends or fails only on the answer to a primitive it has issued (R121). -/
theorem PhaseAdvance.answered (h : PhaseAdvance i p a) : p ≠ .idle ∧ a ≠ .silent := by
  obtain ⟨x, rfl, rfl⟩ | ⟨rest, rfl, rfl⟩ | ⟨x, rfl, rfl, -⟩ := h <;> simp

theorem PhaseDone.answered {d : Bytes} (h : PhaseDone i p a d) : p ≠ .idle ∧ a ≠ .silent := by
  obtain ⟨x, rfl, rfl, -⟩ | ⟨rfl, rfl, -⟩ := h <;> simp

theorem PhaseError.answered {isSync : Bool} {e : OpError} (h : PhaseError i isSync p a e) :
    p ≠ .idle ∧ a ≠ .silent := by
  obtain ⟨rfl, rfl, -⟩ | ⟨rfl, rfl, -⟩ | ⟨rfl, rfl, -⟩ | ⟨b, rest, rfl, rfl, -⟩ | ⟨rfl, rfl, -⟩ | ⟨rfl, rfl, -⟩ |
    ⟨d, rfl, rfl, -⟩ := h <;> simp

/-- A wire command whose exchange goes on issues the one primitive of its phase and moves the sequencer. -/
theorem exec_of_phaseAdvance (hb : encodeBody i = some body) (hf : s.fault = false) (hp : s.phase = p)
    (ha : s.env.answer (phasePrim i p) = a) (h : PhaseAdvance i p a) :
    ∃ t, exec i s = .next t ∧ t.phase = nextPhase p ∧ t.xop = s.xop ∧ t.runseq = s.runseq ∧ KeepsOutcome s t ∧
      AfterPrimitive (phasePrim i p) a s t := by
  obtain ⟨-, hs⟩ := PhaseAdvance.answered h
  have hx : exec i s = .next { s.issue (phasePrim i p) with phase := nextPhase p } := by
    rw [exec_wire hb, act_ok hf]
    obtain ⟨x, rfl, rfl⟩ | ⟨rest, rfl, rfl⟩ | ⟨x, rfl, rfl, hn⟩ := h <;> simp only [phasePrim] at ha ⊢
    · simp only [State.exchange, hp, State.sendPreamble, ha, nextPhase]
    · simp only [State.exchange, hp, State.readAck, ha, nextPhase, if_true]
    · simp only [State.exchange, hp, State.sendBody, ha, nextPhase, if_neg hn]
  exact ⟨_, hx, rfl, rfl, rfl, ⟨rfl, rfl, rfl⟩, afterPrimitive_issue ha hs⟩

/-- A wire command whose response is complete ends its exchange with it, once the primitive of its phase is issued. -/
theorem exec_of_phaseDone {d : Bytes} (hb : encodeBody i = some body) (hf : s.fault = false) (hp : s.phase = p)
    (ha : s.env.answer (phasePrim i p) = a) (h : PhaseDone i p a d) :
    exec i s = .next (doneOf i d (s.issue (phasePrim i p))) ∧
      AfterPrimitive (phasePrim i p) a s (s.issue (phasePrim i p)) := by
  obtain ⟨-, hs⟩ := PhaseDone.answered h
  refine ⟨?_, afterPrimitive_issue ha hs⟩
  rw [exec_wire hb, act_ok hf]
  obtain ⟨x, rfl, rfl, hn, rfl⟩ | ⟨rfl, rfl, hlen⟩ := h <;> simp only [phasePrim] at ha ⊢
  · simp only [State.exchange, hp, State.sendBody, ha, if_pos hn]
  · simp only [State.exchange, hp, State.readResponse, ha, if_neg (Nat.not_lt.2 hlen)]

/-- Where the response completes the operation, it ends with `RESULT = OK` and that data. -/
theorem exec_completes {d x : Bytes} (hb : encodeBody i = some body) (hf : s.fault = false) (hp : s.phase = p)
    (ha : s.env.answer (phasePrim i p) = a) (h : PhaseDone i p a d)
    (hdone : doneOf i d (s.issue (phasePrim i p)) = (s.issue (phasePrim i p)).complete x) :
    ∃ t, exec i s = .next t ∧ EndedWith 0 x s t ∧ AfterPrimitive (phasePrim i p) a s t := by
  obtain ⟨hx, hafter⟩ := exec_of_phaseDone hb hf hp ha h
  rw [hdone] at hx
  exact ⟨_, hx, endedWith_issue_finish _ _ _ s, afterPrimitive_finish hafter _ _⟩

end

/-- Settles O29: on an answer the sequencer goes on to `RX_ACK`, and the I/O error is raised. -/
theorem preambleStep : Obligations.PreambleStep := by
  intro i body s hb hf hp
  refine ⟨fun x ha => exec_of_phaseAdvance hb hf hp ha (.inl ⟨x, rfl, rfl⟩), fun ha => ?_⟩
  rw [← word_writeFailed]
  exact exec_of_phaseError hb hf hp ha (.inl ⟨rfl, rfl, rfl⟩)

/-- Settles O33: the status byte completes the response, and is then checked. -/
theorem cmdSyncCompletes : Obligations.CmdSyncCompletes := by
  intro s b hf hp ha
  have hd : PhaseDone .cmdSync .rxResp (.ok [b]) [b] := .inr ⟨rfl, rfl, Nat.le_refl 1⟩
  refine ⟨fun hb => ?_, fun hb => ?_⟩
  · exact exec_completes (i := .cmdSync) rfl hf hp ha hd (if_pos hb)
  · obtain ⟨hx, hafter⟩ := exec_of_phaseDone (i := .cmdSync) rfl hf hp ha hd
    have hraise : doneOf .cmdSync [b] (s.issue (.rxRead 1)) =
        (s.issue (.rxRead 1)).raise (.protocol true (.badStatus b)) := if_neg hb
    rw [← word_badStatus]
    exact ⟨_, hx.trans (congrArg _ hraise), endedWith_issue_finish _ _ _ s, afterPrimitive_finish hafter _ _⟩

/-- Settles O34: the bytes read are the response, which is empty where `COUNT` is 0. -/
theorem cmdReadMemCompletes : Obligations.CmdReadMemCompletes := by
  intro s a c hf
  refine ⟨fun d _ hp ha hlen => ?_, ?_⟩
  · exact exec_completes (i := .cmdReadMem a c) rfl hf hp ha (.inr ⟨rfl, rfl, hlen.ge⟩) rfl
  · rintro x rfl hp ha
    exact exec_completes (i := .cmdReadMem a 0) rfl hf hp ha (.inl ⟨x, rfl, rfl, rfl, rfl⟩) rfl

/-! ### A scripted exchange -/

/-- The state once the sequencer stands in phase `p` and the port has moved on: `events` are added to its history, and
`e` is the environment behind it. -/
def State.played (p : Phase) (events : List Event) (e : Env) (s : State) : State :=
  { s with phase := p, trace := s.trace ++ events, env := e }

section

variable {i : Instr} {p : Phase} {a : Answer} {more : List (Option Answer)} {s : State}

theorem InExchange.played (h : InExchange i p s) (p' : Phase) (events : List Event) (e : Env) :
    InExchange i p' (s.played p' events e) := by
  obtain ⟨hr, hf, -, hi⟩ := h
  exact ⟨hr, hf, rfl, hi⟩

/-- A primitive with a scripted answer moves the port on, and takes the answer from the script. -/
theorem InExchange.issue_scripted (hx : InExchange i p s) (hp : p ≠ .idle) (hs : s.env.script = some a :: more)
    (ha : (phasePrim i p).fit a ≠ .silent) :
    s.env.answer (phasePrim i p) = (phasePrim i p).fit a ∧
      ∃ e, e.script = more ∧
        s.issue (phasePrim i p) = s.played p [⟨phasePrim i p, (phasePrim i p).fit a⟩] e := by
  obtain ⟨-, -, rfl, -⟩ := hx
  have hprim := phasePrim_ne_tClose i hp
  have hans := Env.answer_scripted hs hprim
  refine ⟨hans, s.env.after (phasePrim i s.phase), ?_, ?_⟩
  · rw [Env.after_script _ hprim, hs, List.tail_cons]
  · rw [State.issue, State.played, hans, Prim.events_answered ha]

theorem step_scripted_of_phaseAdvance (hx : InExchange i p s) (hs : s.env.script = some a :: more)
    (h : PhaseAdvance i p ((phasePrim i p).fit a)) :
    ∃ e, e.script = more ∧
      step s = .next (s.played (nextPhase p) [⟨phasePrim i p, (phasePrim i p).fit a⟩] e) := by
  obtain ⟨hp, ha⟩ := PhaseAdvance.answered h
  obtain ⟨hans, e, he, hissue⟩ := hx.issue_scripted hp hs ha
  refine ⟨e, he, ?_⟩
  rw [step_of_phaseAdvance hx hans h, hissue]
  rfl

theorem step_scripted_of_phaseDone {d : Bytes} (hx : InExchange i p s) (hs : s.env.script = some a :: more)
    (h : PhaseDone i p ((phasePrim i p).fit a) d) :
    ∃ e, e.script = more ∧
      step s = .next (doneOf i d (s.played p [⟨phasePrim i p, (phasePrim i p).fit a⟩] e)) := by
  obtain ⟨hp, ha⟩ := PhaseDone.answered h
  obtain ⟨hans, e, he, hissue⟩ := hx.issue_scripted hp hs ha
  refine ⟨e, he, ?_⟩
  rw [step_of_phaseDone hx hans h, hissue]

theorem step_scripted_of_phaseError {err : OpError} (hx : InExchange i p s) (hs : s.env.script = some a :: more)
    (h : PhaseError i (decide (i = .cmdSync)) p ((phasePrim i p).fit a) err) :
    ∃ e, e.script = more ∧
      step s = .next ((s.played p [⟨phasePrim i p, (phasePrim i p).fit a⟩] e).raise err) := by
  obtain ⟨hp, ha⟩ := PhaseError.answered h
  obtain ⟨hans, e, he, hissue⟩ := hx.issue_scripted hp hs ha
  refine ⟨e, he, ?_⟩
  obtain ⟨-, -, hphase, -⟩ := id hx
  rw [step_eq_exchange hp hx, State.exchange_of_phaseError _ _ hphase hans h, hissue]

/-- The preamble is taken. -/
theorem step_scripted_preamble (hx : InExchange i .txPre s) (hs : s.env.script = some (.ok []) :: more) :
    ∃ e, e.script = more ∧ step s = .next (s.played .rxAck [⟨.txWrite preamble, .ok []⟩] e) :=
  step_scripted_of_phaseAdvance hx hs (.inl ⟨[], rfl, rfl⟩)

/-- The exchanges run so far have added `events` to the port's history and left `more` of its script; connection,
operands, sticky bits, command port and reset input are as they were. -/
abbrev Exchanged (events : List Event) (more : List (Option Answer)) (s t : State) : Prop :=
  t.trace = s.trace ++ events ∧ t.env.script = more ∧ KeepsConnection s t ∧ KeepsOperands s t ∧ KeepsSticky s t ∧
    t.cmds = s.cmds ∧ t.resetReq = s.resetReq

/-- A frame with a body and no response, as the port's history shows it. -/
def bareFrame (body : Bytes) : List Event :=
  [⟨.txWrite preamble, .ok []⟩, ⟨.rxRead 1, .ok [ackByte]⟩, ⟨.txWrite body, .ok []⟩]

/-- An exchange that has no response and is acknowledged has succeeded once its body is taken. -/
theorem run_bareFrame {body : Bytes} (hb : encodeBody i = some body) (hn : responseLength i = 0)
    (hx : InExchange i .txPre s)
    (hs : s.env.script = some (.ok []) :: some (.ok [ackByte]) :: some (.ok []) :: more) :
    ∃ u, core.run 3 s = .next (doneOf i [] u) ∧ Exchanged (bareFrame body) more s u ∧ u.runseq = s.runseq ∧
      u.responses = s.responses := by
  obtain ⟨e1, hs1, h1⟩ := step_scripted_preamble hx hs
  obtain ⟨e2, hs2, h2⟩ := step_scripted_of_phaseAdvance (hx.played .rxAck _ e1) hs1 (.inr (.inl ⟨[], rfl, rfl⟩))
  obtain ⟨e3, hs3, h3⟩ := step_scripted_of_phaseDone ((hx.played .rxAck _ e1).played .txBody _ e2) hs2
    (.inl ⟨[], rfl, rfl, hn, rfl⟩)
  refine ⟨_, ((run_succ h1 2).trans (run_succ h2 1)).trans (run_one h3), ?_⟩
  simp [Exchanged, State.played, phasePrim, hb, Prim.fit, bareFrame, hs3, KeepsConnection, KeepsOperands, KeepsSticky]

/-- A wrong ack ends the operation before the body is sent (R123). -/
theorem run_badAck {b : Byte} (hb : b ≠ ackByte) (hx : InExchange i .txPre s)
    (hs : s.env.script = some (.ok []) :: some (.ok [b]) :: more) :
    ∃ t, core.run 2 s = .next t ∧ EndedWith (failureKind i + stageBit s + gotByteField b) [] s t ∧
      Exchanged [⟨.txWrite preamble, .ok []⟩, ⟨.rxRead 1, .ok [b]⟩] more s t := by
  obtain ⟨e1, hs1, h1⟩ := step_scripted_preamble hx hs
  obtain ⟨e2, hs2, h2⟩ := step_scripted_of_phaseError (hx.played .rxAck _ e1) hs1
    (.inr (.inr (.inr (.inl ⟨b, [], rfl, rfl, hb, rfl⟩))))
  refine ⟨_, (run_succ h1 1).trans (run_one h2), ?_, ?_⟩
  · rw [← word_badAck]
    exact ⟨rfl, rfl, rfl, rfl, rfl, rfl⟩
  · simp [Exchanged, State.played, phasePrim, Prim.fit, hs2, KeepsConnection, KeepsOperands, KeepsSticky]

end

/-! ### A whole `runProgram` -/

/-- The body of the RegisterBlock write, as R161 has it. -/
def registersBody (v : Half) : Bytes :=
  [0x02, 0x00, 0x7E, 0x00, 0x10, 0x00, 0x00, 0x00, 0x00, 0x00, 0x00, 0x00,
    v.extractLsb' 0 8, v.extractLsb' 8 8, 0x00, 0x00, 0xFF, 0x00, 0x00, 0x01, 0x00, 0x00]

theorem encodeBody_regblockWrite (v : Half) : encodeBody (regblockWrite v) = some (registersBody v) := by
  have hheader : [opWrite] ++ addr24 regblockBase ++ le16 0x0010 = [0x02, 0x00, 0x7E, 0x00, 0x10, 0x00] := by decide
  have hlen : BitVec.ofNat 16 (encodeRegblock v).length = 0x0010 := rfl
  rw [regblockWrite, encodeBody, hlen, hheader, registerBlockBytes]
  rfl

section

variable {v : Half} {rest : List Command} {more : List (Option Answer)} {s : State}

/-- An exchange of the `runProgram` at the port has added `events` to the history: the command is taken, its `START`
latched, and no response delivered yet. -/
abbrev ProgramAt (i : Instr) (r : RunSeq) (v : Half) (rest : List Command) (events : List Event)
    (more : List (Option Answer)) (s u : State) : Prop :=
  InExchange i .txPre u ∧ u.runseq = r ∧ u.start = v ∧ u.conn = .connected ∧ u.cmds = rest ∧
    u.responses = s.responses ∧ u.trace = s.trace ++ events ∧ u.env.script = more

/-- On acceptance the RegisterBlock write starts. -/
theorem step_runProgram (hready : Ready (cmdRunProgram v) rest s) :
    ∃ u, step s = .next u ∧ ProgramAt (regblockWrite v) .regs v rest [] s.env.script s u := by
  obtain ⟨hc, hp, -, hf, hreset, hcmds⟩ := hready
  refine ⟨_, (step_of_fetch_run (fetch_command hreset hf hp hcmds)).trans (exec_of_starts (.runProgram v) hf hp hc),
    ⟨hreset, hf, rfl, rfl⟩, rfl, rfl, hc, ?_, rfl, (List.append_nil _).symm, rfl⟩
  simp [hcmds]

/-- Once the RegisterBlock is taken, the Execute starts. -/
theorem run_registers (hready : Ready (cmdRunProgram v) rest s) (hs : Scripted [.ok [], .ok [0xCC], .ok []] more s) :
    ∃ u, core.run 4 s = .next u ∧ ProgramAt .cmdExec .exec v rest (bareFrame (registersBody v)) more s u := by
  obtain ⟨w, haccept, hx, hregs, hv, hc, hcmds, hresp, htrace, hscript⟩ := step_runProgram hready
  obtain ⟨u, hrun, ⟨hutrace, huscript, ⟨huconn, -⟩, ⟨-, -, -, hustart⟩, ⟨hufault, -⟩, hucmds, hureset⟩, hurun,
      huresp⟩ :=
    run_bareFrame (more := more) (encodeBody_regblockWrite v) rfl hx (hscript.trans hs)
  obtain ⟨hreset, hf, -, -⟩ := hx
  have hdone : doneOf (regblockWrite v) [] u = { u with runseq := .exec }.startExchange .exec := by
    simp [doneOf, regblockWrite, State.afterWrite, hurun.trans hregs]
  rw [hdone] at hrun
  refine ⟨_, (run_succ haccept 3).trans hrun, ⟨hureset.trans hreset, hufault.trans hf, rfl, rfl⟩, rfl,
    hustart.trans hv, huconn.trans hc, hucmds.trans hcmds, huresp.trans hresp, ?_, huscript⟩
  rw [State.startExchange_trace, hutrace, htrace, List.append_nil]

end

/-- Settles O56: the RegisterBlock write and the Execute are two exchanges of one operation, and a wrong ack ends it in
either. -/
theorem runProgramRun : Obligations.RunProgramRun := by
  intro s rest more v b hready
  refine ⟨fun hs => ?_, fun hb hs => ?_, fun hb hs => ?_⟩
  · obtain ⟨u, hrun, hx, -, hv, hc, hcmds, hresp, htrace, hscript⟩ :=
      run_registers (more := some (.ok []) :: some (.ok [0xCC]) :: some (.ok []) :: more) hready hs
    obtain ⟨t, hrun', ⟨httrace, htscript, ⟨htconn, -⟩, ⟨-, -, -, htstart⟩, -, htcmds, -⟩, -, htresp⟩ :=
      run_bareFrame (more := more) rfl rfl hx hscript
    refine ⟨t.complete [], (run_add hrun 3).trans hrun', ⟨rfl, rfl, rfl, rfl, rfl, ?_⟩, htstart.trans hv,
      htconn.trans hc, htcmds.trans hcmds, htscript, ?_⟩
    · rw [State.complete_eq, State.finish_responses, htresp, hresp]
      rfl
    · rw [State.complete_eq, State.finish_trace, httrace, htrace, List.append_assoc]
      rfl
  · obtain ⟨u, hrun, hx, hexec, -, hc, -, hresp, -, hscript⟩ :=
      run_registers (more := some (.ok []) :: some (.ok [b]) :: more) hready hs
    obtain ⟨t, hrun', hend, -, -, ⟨htconn, -⟩, -⟩ := run_badAck (more := more) hb hx hscript
    refine ⟨t, (run_add hrun 2).trans hrun', ?_, htconn.trans hc⟩
    simpa [EndedWith, hexec, hresp, stageBit, failureKind] using hend
  · obtain ⟨u, haccept, hx, hregs, -, hc, -, hresp, htrace, hscript⟩ := step_runProgram hready
    obtain ⟨t, hrun, hend, httrace, htscript, ⟨htconn, -⟩, -⟩ := run_badAck (more := more) hb hx (hscript.trans hs)
    refine ⟨t, (run_succ haccept 2).trans hrun, ?_, htconn.trans hc, htscript, ?_⟩
    · simpa [EndedWith, hregs, hresp, stageBit, failureKind, regblockWrite] using hend
    · rw [httrace, htrace, List.append_nil]
      rfl

end Sys2Proof.Machine
end

section
/-! The Caller's chunks of an image (R251, R143). -/

namespace Sys2Proof.Machine

/-- An image that is not empty begins with its first chunk. -/
theorem chunks_succ {image : Bytes} (h : image ≠ []) (fuel : Nat) (a : Addr) :
    chunks (fuel + 1) a image =
      (a, image.take 65535) :: chunks fuel (a + BitVec.ofNat 24 65535) (image.drop 65535) := by
  cases image with
  | nil => exact absurd rfl h
  | cons b bs => rfl

@[simp] theorem chunks_nil (fuel : Nat) (a : Addr) : chunks fuel a [] = [] := by
  cases fuel <;> rfl

/-- With a round for each byte, no byte is left over. -/
theorem flatten_chunks {fuel : Nat} {image : Bytes} (h : image.length ≤ fuel) (a : Addr) :
    ((chunks fuel a image).map (fun c => c.2)).flatten = image := by
  induction fuel generalizing a image with
  | zero =>
    obtain rfl : image = [] := List.eq_nil_of_length_eq_zero (Nat.le_zero.1 h)
    rfl
  | succ fuel ih =>
    by_cases hne : image = []
    · simp [hne]
    · have hpos := List.length_pos_iff.2 hne
      have hrest : (image.drop 65535).length ≤ fuel := by
        rw [List.length_drop]
        omega
      rw [chunks_succ hne, List.map_cons, List.flatten_cons, ih hrest, List.take_append_drop]

theorem chunks_size {fuel : Nat} {a : Addr} {image : Bytes} {c : Addr × Bytes} (hc : c ∈ chunks fuel a image) :
    c.2 ≠ [] ∧ c.2.length ≤ 65535 := by
  induction fuel generalizing a image with
  | zero => cases hc
  | succ fuel ih =>
    by_cases hne : image = []
    · simp [hne] at hc
    · rw [chunks_succ hne, List.mem_cons] at hc
      obtain rfl | hc := hc
      · exact ⟨by simp [hne], List.length_take_le _ _⟩
      · exact ih hc

/-- Chunk `k` stands at offset `65535 k` of the image, inside it. -/
theorem chunks_getElem? {fuel : Nat} {a : Addr} {image : Bytes} {k : Nat} {c : Addr × Bytes}
    (hc : (chunks fuel a image)[k]? = some c) :
    c.1 = a + BitVec.ofNat 24 (65535 * k) ∧ c.2 = (image.drop (65535 * k)).take 65535 ∧ 65535 * k < image.length := by
  induction fuel generalizing a image k with
  | zero => cases hc
  | succ fuel ih =>
    by_cases hne : image = []
    · simp [hne] at hc
    rw [chunks_succ hne] at hc
    cases k with
    | zero =>
      obtain rfl : _ = c := Option.some.inj hc
      exact ⟨(BitVec.add_zero a).symm, rfl, List.length_pos_iff.2 hne⟩
    | succ k =>
      obtain ⟨haddr, hdata, hlt⟩ := ih hc
      rw [List.length_drop] at hlt
      refine ⟨?_, ?_, by omega⟩
      · rw [haddr, BitVec.add_assoc, ← BitVec.ofNat_add, Nat.mul_succ, Nat.add_comm]
      · rw [hdata, List.drop_drop, Nat.mul_succ, Nat.add_comm]

/-- Settles O60: each round takes one chunk off the image, and the chunks of the rest are at their offset in it. -/
theorem chunksCoverImage : Obligations.ChunksCoverImage := by
  intro a image
  refine ⟨flatten_chunks le_rfl a, fun c => chunks_size, fun k c hc => ?_⟩
  obtain ⟨haddr, hdata, hlt⟩ := chunks_getElem? hc
  refine ⟨haddr, hdata, fun hend => ?_⟩
  rw [haddr, BitVec.toNat_add, BitVec.toNat_ofNat]
  omega

end Sys2Proof.Machine
end

section
/-! `open` and `close`, and an exchange operation while `DISCONNECTED` (R101-R104). -/

namespace Sys2Proof.Machine

open Sys2Proof.Safety

/-! ### The two errors without a connection, and the end of an operation -/

theorem word_openFailed : (OpError.transport .openFailed).word false = 0x00000001 := rfl

/-- `NOT_CONNECTED` carries no `STAGE` (R28). -/
theorem word_notConnected (stage : Bool) : OpError.notConnected.word stage = 0x00000004 := rfl

/-- Where no response has been delivered on the way, the end of the operation delivers its one (R32). -/
theorem endedWith_finish {r r' : BitVec 32} {d : Bytes} {s t : State} (hr : r' = r) (h : t.responses = s.responses) :
    EndedWith r d s (t.finish r' d) := by
  simp [EndedWith, hr, h]

/-! ### `open` -/

/-- Settles O43: the connected branch of `open` is the refusal. -/
theorem openWhileConnectedIsRefused : Obligations.OpenWhileConnectedIsRefused := fun _ _ hf hp hc =>
  (exec_host_idle rfl hf hp).trans (congrArg Host.Outcome.next (if_pos hc))

theorem exec_hostOpen_disconnected {port : PortId} {s : State} (hf : s.fault = false) (hp : s.phase = .idle)
    (hc : s.conn = .disconnected) : exec (.hostOpen port) s = .next (s.openPort port) := by
  rw [exec_host_idle rfl hf hp]
  simp [hostBody, hc]

theorem openPort_of_ok {port : PortId} {s : State} {x : Bytes}
    (ha : s.env.answer (.tOpen port 57600 .rtsCts) = .ok x) :
    s.openPort port = { s.takeCommand.issue (.tOpen port 57600 .rtsCts) with
      portId := port, thandle := some { port := port }, conn := .connected }.finish 0 [] := by
  simp only [State.openPort, Config.baud, Config.flow, ha, State.complete_eq, resultOk]

theorem openPort_of_ioError {port : PortId} {s : State} (hrun : s.runseq = .none)
    (ha : s.env.answer (.tOpen port 57600 .rtsCts) = .ioError) :
    s.openPort port = (s.takeCommand.issue (.tOpen port 57600 .rtsCts)).finish 0x00000001 [] := by
  simp [State.openPort, Config.baud, Config.flow, ha, hrun, word_openFailed]

/-- Settles O39: an `OK` acquires the transport, an I/O error is raised, and each ends the operation after its one
primitive. -/
theorem hostOpenCompletes : Obligations.HostOpenCompletes := by
  intro port s hf hp hrun hc
  refine ⟨fun x ha => ⟨_, exec_hostOpen_disconnected hf hp hc, ?_⟩,
    fun ha => ⟨_, exec_hostOpen_disconnected hf hp hc, ?_⟩⟩
  · obtain ⟨htrace, henv, -, hoperands, hsticky, -, -⟩ := afterPrimitive_issue (s := s.takeCommand) ha (by simp)
    rw [openPort_of_ok ha]
    exact ⟨rfl, rfl, rfl, endedWith_finish rfl rfl, hoperands, hsticky, rfl, rfl, henv, htrace⟩
  · obtain ⟨htrace, -, hconn, hoperands, hsticky, -, -⟩ := afterPrimitive_issue (s := s.takeCommand) ha (by simp)
    rw [openPort_of_ioError hrun ha]
    exact ⟨endedWith_finish rfl rfl, hconn, hoperands, hsticky, rfl, rfl, htrace⟩

/-! ### `close` -/

theorem exec_hostClose_connected {s : State} (hf : s.fault = false) (hp : s.phase = .idle) (hc : s.conn = .connected) :
    exec .hostClose s = .next s.closePort :=
  (exec_host_idle rfl hf hp).trans (congrArg Host.Outcome.next (if_pos hc))

/-- Settles O40: `TClose` has no answer but `OK` and leaves what lies behind the port as it was, so `close` completes. -/
theorem hostCloseCompletes : Obligations.HostCloseCompletes := by
  intro s hf hp hc
  obtain ⟨htrace, henv, -, hoperands, hsticky, -, -⟩ :=
    afterPrimitive_issue (Env.answer_tClose s.takeCommand.env) (by simp)
  rw [Env.after_tClose] at henv
  exact ⟨_, exec_hostClose_connected hf hp hc, rfl, rfl, rfl, endedWith_finish rfl rfl, hoperands, hsticky,
    rfl, rfl, henv, htrace⟩

/-! ### The gate of R103 -/

/-- While `DISCONNECTED` an exchange operation latches its operands and raises `NOT_CONNECTED`. -/
theorem exec_of_starts_disconnected {i : Instr} {latch begin : State → State} (h : Starts i latch begin) {s : State}
    (hf : s.fault = false) (hp : s.phase = .idle) (hc : s.conn = .disconnected) :
    exec i s = .next ((latch s.takeCommand).raise .notConnected) := by
  obtain ⟨c, he⟩ := h.encode_port
  have hc' : (latch s.takeCommand).conn ≠ .connected := by simp [h.latch_conn, hc]
  rw [exec_host_idle he hf hp, h.hostBody_eq, State.whenConnected, if_neg hc']

/-- Each of the four exchange operations starts an exchange, a write with data that fit the length field. -/
theorem exists_starts_of_mem {a : Addr} {n : Half} {d : Bytes} {v : Half} {i : Instr} (hd : d.length ≤ 65535)
    (hi : i ∈ [Instr.hostSynchronize, .hostReadMemory a n, .hostWriteMemory a d, .hostRunProgram v]) :
    ∃ latch begin, Starts i latch begin := by
  simp only [List.mem_cons, List.not_mem_nil, or_false] at hi
  obtain rfl | rfl | rfl | rfl := hi
  · exact ⟨_, _, .synchronize⟩
  · exact ⟨_, _, .readMemory a n⟩
  · exact ⟨_, _, .writeMemory a d hd⟩
  · exact ⟨_, _, .runProgram v⟩

/-- Settles O42: latching touches the operands alone, and the error ends the operation before any primitive. -/
theorem notConnectedGate : Obligations.NotConnectedGate := by
  intro s a n d v i hf hp hc hd hi
  obtain ⟨latch, begin, hstarts⟩ := exists_starts_of_mem hd hi
  obtain ⟨hconn, hsticky, ⟨-, -, hresponses⟩, hprim, -, hcmds, hreset⟩ := hstarts.latch_frame s.takeCommand
  refine ⟨_, exec_of_starts_disconnected hstarts hf hp hc, ?_, hprim, hconn, hsticky, hcmds, hreset⟩
  exact endedWith_finish (word_notConnected _) hresponses

end Sys2Proof.Machine
end

section
/-! The steps at `RX_ACK` and `TX_BODY`, and that every answered exchange ends (R121). -/

namespace Sys2Proof.Machine

open Sys2Proof.Safety

/-! ### The ack and the body -/

theorem word_shortAck (i : Instr) (s : State) :
    (OpError.protocol (decide (i = .cmdSync)) .shortAck).word (decide (s.runseq = .exec)) =
      failureKind i + 0x00000008 + stageBit s := by
  simp only [OpError.word, resultWord_eq_sum, ProtocolCause.code, ProtocolCause.gotByte, ProtocolCause.gotCount]
  by_cases h : i = .cmdSync <;> simp [failureKind, gotByteField, gotCountField, h]

theorem phasePrim_txBody {i : Instr} {body : Bytes} (h : encodeBody i = some body) :
    phasePrim i .txBody = .txWrite body := by
  rw [phasePrim, h, Option.getD_some]

/-- Settles O30: the ack byte alone moves the sequencer on, every other answer is an error of `RX_ACK`, and a read of
one byte has no other answers. -/
theorem ackStep : Obligations.AckStep := by
  intro i body s hb hf hp
  refine ⟨fun ha => ?_, fun b ha hne => ?_, fun ha => ?_, fun ha => ?_, fun d ha => ?_⟩
  · exact exec_of_phaseAdvance hb hf hp ha (.inr (.inl ⟨[], rfl, rfl⟩))
  · rw [← word_badAck]
    exact exec_of_phaseError hb hf hp ha (.inr (.inr (.inr (.inl ⟨b, [], rfl, rfl, hne, rfl⟩))))
  · rw [← word_shortAck]
    exact exec_of_phaseError hb hf hp ha (.inr (.inr (.inl ⟨rfl, rfl, rfl⟩)))
  · rw [← word_readFailed]
    exact exec_of_phaseError hb hf hp ha (.inr (.inl ⟨rfl, rfl, rfl⟩))
  · have hlen : d.length ≤ 1 := Env.answer_rxRead_length ha
    obtain h | h := Nat.le_one_iff_eq_zero_or_eq_one.1 hlen
    · exact .inl (List.eq_nil_of_length_eq_zero h)
    · exact .inr (List.length_eq_one_iff.1 h)

/-- Settles O31: an awaited response moves the sequencer on to `RX_RESP`, and the I/O error is raised. -/
theorem bodyStep : Obligations.BodyStep := by
  intro i body s hb hf hp
  rw [← phasePrim_txBody hb]
  refine ⟨fun x ha hn => exec_of_phaseAdvance hb hf hp ha (.inr (.inr ⟨x, rfl, rfl, hn⟩)), fun ha => ?_⟩
  rw [← word_writeFailed]
  exact exec_of_phaseError hb hf hp ha (.inr (.inr (.inr (.inr (.inl ⟨rfl, rfl, rfl⟩)))))

theorem State.afterWrite_of_regs {s : State} (h : s.runseq = .regs) :
    s.afterWrite = { s with runseq := .exec }.startExchange .exec := by
  simp only [State.afterWrite, h]

theorem State.afterWrite_of_ne_regs {s : State} (h : s.runseq ≠ .regs) : s.afterWrite = s.complete [] := by
  cases hr : s.runseq with
  | regs => exact absurd hr h
  | _ => simp only [State.afterWrite, hr]

/-- Settles O35: a write has no response, so its body completes it; what follows is decided by `RUNSEQ`. -/
theorem cmdWriteMemCompletes : Obligations.CmdWriteMemCompletes := by
  intro s a d x hf hp ha
  have hd : PhaseDone (.cmdWriteMem a d) .txBody (.ok x) [] := .inl ⟨x, rfl, rfl, rfl, rfl⟩
  by_cases hr : s.runseq = .regs
  · obtain ⟨hx, hafter⟩ := exec_of_phaseDone (i := .cmdWriteMem a d) rfl hf hp ha hd
    have hexecute := State.afterWrite_of_regs (s := s.issue (phasePrim (.cmdWriteMem a d) .txBody)) hr
    refine ⟨_, hx.trans (congrArg _ hexecute), hafter, ?_⟩
    rw [if_pos hr]
    exact ⟨rfl, rfl, rfl, rfl, rfl, rfl⟩
  · obtain ⟨t, hx, hend, hafter⟩ := exec_completes (i := .cmdWriteMem a d) (x := []) rfl hf hp ha hd
      (State.afterWrite_of_ne_regs hr)
    refine ⟨t, hx, hafter, ?_⟩
    rw [if_neg hr]
    exact hend

/-- Settles O36: an Execute has no response, so its body completes the operation. -/
theorem cmdExecCompletes : Obligations.CmdExecCompletes := fun _ x hf hp ha =>
  exec_completes (i := .cmdExec) rfl hf hp ha (.inl ⟨x, rfl, rfl, rfl, rfl⟩) rfl

/-! ### Every answered exchange ends -/

/-- The primitives an operation still issues at most: those of its exchange, and in the first exchange of a `runProgram`
those of the second (R121, R161). -/
def stepsLeft (s : State) : Nat := primitivesLeft s.phase + if s.runseq = .regs then 4 else 0

theorem primitivesLeft_le_four (p : Phase) : primitivesLeft p ≤ 4 := by
  cases p <;> decide

theorem stepsLeft_le (s : State) : stepsLeft s ≤ if s.runseq = .regs then 8 else 4 := by
  have h := primitivesLeft_le_four s.phase
  unfold stepsLeft
  split <;> omega

theorem primitivesLeft_pos {p : Phase} (hp : p ≠ .idle) : 0 < primitivesLeft p := by
  rw [primitivesLeft_nextPhase hp]
  exact Nat.succ_pos _

/-- An answered primitive brings the operation nearer to its end. -/
theorem WireMove.stepsLeft_lt {i : Instr} {s t : State} (h : WireMove i s t) (hp : s.phase ≠ .idle)
    (ha : s.env.answer (phasePrim i s.phase) ≠ .silent) : stepsLeft t < stepsLeft s := by
  have hpos := primitivesLeft_pos hp
  have hended : ∀ (u : State) (r : BitVec 32) (d : Bytes), stepsLeft (u.finish r d) < stepsLeft s :=
    fun _ _ _ => Nat.lt_add_right _ hpos
  cases h with
  | pending hs => exact absurd hs ha
  | advance _ => exact Nat.add_lt_add_right (by simp [primitivesLeft_nextPhase hp]) _
  | fail e _ => exact hended _ _ _
  | badStatus b _ _ => exact hended _ _ _
  | complete d _ => exact hended _ _ _
  | execute d _ hregs =>
    have hs : stepsLeft s = primitivesLeft s.phase + 4 := congrArg _ (if_pos hregs)
    rw [hs]
    exact Nat.lt_add_of_pos_left hpos

/-- A faulted block is at `IDLE`. -/
theorem fault_of_phase_ne_idle {s : State} (h : Inv s) (hp : s.phase ≠ .idle) : s.fault = false := by
  obtain ⟨-, -, -, -, -, -, hfault, -⟩ := h
  cases hf : s.fault with
  | false => rfl
  | true => exact absurd (hfault hf).1 hp

/-- With every primitive it has left answered, an operation in an exchange ends with its one response. -/
theorem operation_ends {answers : List Answer} {more : List (Option Answer)} {s : State} (hinv : Inv s)
    (hp : s.phase ≠ .idle) (hr : s.resetReq = false) (hleft : stepsLeft s ≤ answers.length)
    (hs : Scripted answers more s) (hans : ∀ a ∈ answers, a ≠ .silent) :
    ∃ k t, k ≤ stepsLeft s ∧ core.run k s = .next t ∧ t.phase = .idle ∧
      t.responses = s.responses ++ [⟨t.result, t.rdata⟩] := by
  induction answers generalizing s with
  | nil =>
    have hpos := primitivesLeft_pos hp
    exact absurd (Nat.le_of_add_right_le hleft) (Nat.not_le.2 hpos)
  | cons a rest ih =>
    obtain ⟨i, hi⟩ := exists_inFlight hinv hp
    obtain ⟨t, hstep, hm⟩ := step_inFlight hr (fault_of_phase_ne_idle hinv hp) hp hi
    have hprim := phasePrim_ne_tClose i hp
    have hanswer : s.env.answer (phasePrim i s.phase) ≠ .silent := by
      rw [Env.answer_scripted hs hprim]
      exact Prim.fit_ne_silent (hans a List.mem_cons_self)
    have hlt := hm.stepsLeft_lt hp hanswer
    obtain ⟨hnext, -, -, hresp⟩ | ⟨hidle, hresp⟩ := hm.outcome hp
    · have hscript : Scripted rest more t := by
        rw [Scripted, hm.port.1, Env.after_script _ hprim, hs]
        rfl
      obtain ⟨-, -, -, -, hreset⟩ := hm.frame
      obtain ⟨k, u, hk, hrun, hend, huresp⟩ := ih (stepKeepsInvariant s t hinv hstep) hnext (hreset.trans hr)
        (Nat.le_of_lt_succ (hlt.trans_le hleft)) hscript fun b hb => hans b (List.mem_cons_of_mem _ hb)
      exact ⟨k + 1, u, hk.trans_lt hlt, (run_succ hstep k).trans hrun, hend, hresp ▸ huresp⟩
    · exact ⟨1, t, Nat.one_le_of_lt hlt, run_one hstep, hidle, hresp⟩

/-- A script whose first entries each fix an answer is a list of answers and what comes after them. -/
theorem exists_answers {l : List (Option Answer)} (h : ∀ o ∈ l, ∃ a, o = some a ∧ a ≠ .silent) :
    ∃ answers : List Answer, l = answers.map some ∧ ∀ a ∈ answers, a ≠ .silent := by
  induction l with
  | nil => exact ⟨[], rfl, by simp⟩
  | cons o rest ih =>
    obtain ⟨a, rfl, ha⟩ := h o List.mem_cons_self
    obtain ⟨answers, rfl, hans⟩ := ih fun o ho => h o (List.mem_cons_of_mem _ ho)
    exact ⟨a :: answers, rfl, List.forall_mem_cons.2 ⟨ha, hans⟩⟩

/-- Settles O27: each answered primitive leaves fewer to issue, of which there are four, or eight before the Execute of
a `runProgram`. -/
theorem exchangesTerminate : Obligations.ExchangesTerminate := by
  intro s hinv hp hr hlen hanswered
  obtain ⟨answers, htake, hans⟩ := exists_answers hanswered
  have hscript : Scripted answers (s.env.script.drop 8) s := by
    rw [Scripted, ← htake, List.take_append_drop]
  have height : answers.length = 8 := by
    rw [← List.length_map (f := some), ← htake, List.length_take_of_le hlen]
  have hbound := stepsLeft_le s
  have hleft : stepsLeft s ≤ answers.length := by
    rw [height]
    split at hbound <;> omega
  obtain ⟨k, t, hk, hend⟩ := operation_ends hinv hp hr hleft hscript hans
  exact ⟨k, t, hk.trans hbound, hend⟩

end Sys2Proof.Machine
end

section
/-! Whole operations from acceptance to response: `synchronize`, `readMemory` and `writeMemory` (R124, R140, R141). -/

namespace Sys2Proof.Machine

open Sys2Proof.Safety

/-! ### Acceptance -/

/-- From `s` the one exchange of an operation, that of `w`, has been started: the command is taken, nothing is sent yet
and no response delivered. -/
abbrev Accepted (w : Instr) (rest : List Command) (s u : State) : Prop :=
  InExchange w .txPre u ∧ u.runseq = .none ∧ u.conn = .connected ∧ u.cmds = rest ∧ u.responses = s.responses ∧
    u.trace = s.trace ∧ u.env.script = s.env.script

theorem step_accepts {c : Command} {latch : State → State} {x : XOp} {w : Instr} {rest : List Command} {s : State}
    (hstarts : Starts (decodeCommand c) latch (State.startExchange x)) (hready : Ready c rest s)
    (hflight : ((latch s.takeCommand).startExchange x).inFlight = some w) :
    step s = .next ((latch s.takeCommand).startExchange x) ∧
      Accepted w rest s ((latch s.takeCommand).startExchange x) := by
  obtain ⟨hc, hp, hrun, hf, hreset, hcmds⟩ := hready
  obtain ⟨⟨hlconn, -⟩, ⟨hlfault, -⟩, ⟨-, -, hlresp⟩, ⟨hltrace, hlenv⟩, ⟨-, -, hlrun⟩, hlcmds, hlreset⟩ :=
    hstarts.latch_frame s.takeCommand
  refine ⟨(step_of_fetch_run (fetch_command hreset hf hp hcmds)).trans (exec_of_starts hstarts hf hp hc),
    ⟨hlreset.trans hreset, hlfault.trans hf, rfl, hflight⟩, hlrun.trans hrun, hlconn.trans hc, hlcmds.trans ?_, hlresp,
    hltrace, congrArg Env.script hlenv⟩
  rw [State.takeCommand_cmds, hcmds, List.tail_cons]

theorem step_synchronize {rest : List Command} {s : State} (h : Ready cmdSynchronize rest s) :
    ∃ u, step s = .next u ∧ Accepted .cmdSync rest s u := by
  obtain ⟨-, -, hrun, -⟩ := id h
  exact ⟨_, step_accepts (c := cmdSynchronize) .synchronize h (by simp [State.inFlight, hrun])⟩

theorem step_readMemory {a : Addr} {c : Half} {rest : List Command} {s : State}
    (h : Ready (cmdReadMemory a c) rest s) :
    ∃ u, step s = .next u ∧ Accepted (.cmdReadMem a c) rest s u ∧ u.addr = a ∧ u.count = c := by
  obtain ⟨-, -, hrun, -⟩ := id h
  obtain ⟨hstep, hu⟩ := step_accepts (c := cmdReadMemory a c) (w := .cmdReadMem a c) (.readMemory a c) h
    (by simp [State.inFlight, hrun])
  exact ⟨_, hstep, hu, rfl, rfl⟩

theorem step_writeMemory {a : Addr} {d : Bytes} {rest : List Command} {s : State} (hd : d.length ≤ 65535)
    (h : Ready (cmdWriteMemory a d) rest s) :
    ∃ u, step s = .next u ∧ Accepted (.cmdWriteMem a d) rest s u ∧ u.addr = a ∧ u.data = d ∧
      u.count.toNat = d.length := by
  obtain ⟨-, -, hrun, -⟩ := id h
  obtain ⟨hstep, hu⟩ := step_accepts (c := cmdWriteMemory a d) (w := .cmdWriteMem a d) (.writeMemory a d hd) h
    (by simp [State.inFlight, hrun])
  exact ⟨_, hstep, hu, rfl, rfl, toNat_length hd⟩

/-! ### An exchange whose primitives are answered `OK` -/

theorem State.played_played (s : State) (p p' : Phase) (events events' : List Event) (e e' : Env) :
    (s.played p events e).played p' events' e' = s.played p' (events ++ events') e' := by
  simp [State.played]

section

variable {i : Instr} {body x a y b : Bytes} {more : List (Option Answer)} {s : State}

/-- The ack is accepted. -/
theorem run_ack (hx : InExchange i .txPre s) (ha : a.head? = some ackByte)
    (hs : s.env.script = some (.ok x) :: some (.ok a) :: more) :
    ∃ e, e.script = more ∧
      core.run 2 s = .next (s.played .txBody [⟨.txWrite preamble, .ok []⟩, ⟨.rxRead 1, .ok [ackByte]⟩] e) := by
  obtain ⟨r, rfl⟩ := List.head?_eq_some_iff.1 ha
  obtain ⟨e1, hs1, h1⟩ := step_scripted_of_phaseAdvance hx hs (.inl ⟨[], rfl, rfl⟩)
  obtain ⟨e2, hs2, h2⟩ := step_scripted_of_phaseAdvance (hx.played .rxAck _ e1) hs1 (.inr (.inl ⟨[], rfl, rfl⟩))
  rw [State.played_played] at h2
  exact ⟨e2, hs2, (run_succ h1 1).trans (run_one h2)⟩

/-- Anything else read in its place fails the exchange (R123). -/
theorem run_noAck (hx : InExchange i .txPre s) (ha : a.head? ≠ some ackByte)
    (hs : s.env.script = some (.ok x) :: some (.ok a) :: more) :
    ∃ cause events e,
      core.run 2 s = .next ((s.played .rxAck events e).raise (.protocol (decide (i = .cmdSync)) cause)) := by
  obtain ⟨e1, hs1, h1⟩ := step_scripted_of_phaseAdvance hx hs (.inl ⟨[], rfl, rfl⟩)
  obtain ⟨cause, herror⟩ : ∃ cause, PhaseError i (decide (i = .cmdSync)) .rxAck ((phasePrim i .rxAck).fit (.ok a))
      (.protocol (decide (i = .cmdSync)) cause) := by
    cases a with
    | nil => exact ⟨_, .inr (.inr (.inl ⟨rfl, rfl, rfl⟩))⟩
    | cons c r =>
      have hc : c ≠ ackByte := fun hc => ha (congrArg some hc)
      exact ⟨_, .inr (.inr (.inr (.inl ⟨c, [], rfl, rfl, hc, rfl⟩)))⟩
  obtain ⟨e2, -, h2⟩ := step_scripted_of_phaseError (hx.played .rxAck _ e1) hs1 herror
  rw [State.played_played] at h2
  exact ⟨cause, _, e2, (run_succ h1 1).trans (run_one h2)⟩

/-- After the ack and the body, a response that is not empty is awaited. -/
theorem run_toResponse (hb : encodeBody i = some body) (hn : responseLength i ≠ 0) (hx : InExchange i .txPre s)
    (ha : a.head? = some ackByte) (hs : s.env.script = some (.ok x) :: some (.ok a) :: some (.ok y) :: more) :
    ∃ e, e.script = more ∧ core.run 3 s = .next (s.played .rxResp (bareFrame body) e) := by
  obtain ⟨e1, hs1, h1⟩ := run_ack hx ha hs
  obtain ⟨e2, hs2, h2⟩ := step_scripted_of_phaseAdvance (hx.played .txBody _ e1) hs1
    (.inr (.inr ⟨[], rfl, rfl, hn⟩))
  rw [State.played_played, phasePrim_txBody hb] at h2
  exact ⟨e2, hs2, (run_add h1 1).trans (run_one h2)⟩

/-- A frame with a response read, as the port's history shows it. -/
def fullFrame (body : Bytes) (n : Nat) (response : Bytes) : List Event :=
  bareFrame body ++ [⟨.rxRead n, .ok response⟩]

/-- A whole response is what `doneOf` goes by. -/
theorem run_response (hb : encodeBody i = some body) (hn : responseLength i ≠ 0) (hx : InExchange i .txPre s)
    (ha : a.head? = some ackByte) (hlen : responseLength i ≤ b.length)
    (hs : s.env.script = some (.ok x) :: some (.ok a) :: some (.ok y) :: some (.ok b) :: more) :
    ∃ e, e.script = more ∧ core.run 4 s = .next (doneOf i (b.take (responseLength i))
      (s.played .rxResp (fullFrame body (responseLength i) (b.take (responseLength i))) e)) := by
  obtain ⟨e1, hs1, h1⟩ := run_toResponse hb hn hx ha hs
  have htake : responseLength i ≤ (b.take (responseLength i)).length := (List.length_take_of_le hlen).ge
  obtain ⟨e2, hs2, h2⟩ := step_scripted_of_phaseDone (hx.played .rxResp _ e1) hs1 (.inr ⟨rfl, rfl, htake⟩)
  rw [State.played_played] at h2
  exact ⟨e2, hs2, (run_add h1 1).trans (run_one h2)⟩

/-- A short response fails the exchange with the number of bytes received (R122). -/
theorem run_shortResponse (hb : encodeBody i = some body) (hx : InExchange i .txPre s)
    (ha : a.head? = some ackByte) (hlen : b.length < responseLength i)
    (hs : s.env.script = some (.ok x) :: some (.ok a) :: some (.ok y) :: some (.ok b) :: more) :
    ∃ events e, core.run 4 s =
      .next ((s.played .rxResp events e).raise (.protocol (decide (i = .cmdSync)) (.shortResponse b.length))) := by
  obtain ⟨e1, hs1, h1⟩ := run_toResponse hb (Nat.ne_zero_of_lt hlen) hx ha hs
  have hfit : (phasePrim i .rxResp).fit (.ok b) = .ok b := congrArg Answer.ok (List.take_of_length_le hlen.le)
  have herror : PhaseError i (decide (i = .cmdSync)) .rxResp ((phasePrim i .rxResp).fit (.ok b))
      (.protocol (decide (i = .cmdSync)) (.shortResponse b.length)) := by
    rw [hfit]
    exact .inr (.inr (.inr (.inr (.inr (.inr ⟨b, rfl, rfl, hlen, rfl⟩)))))
  obtain ⟨e2, -, h2⟩ := step_scripted_of_phaseError (hx.played .rxResp _ e1) hs1 herror
  rw [State.played_played] at h2
  exact ⟨_, e2, (run_add h1 1).trans (run_one h2)⟩

/-! ### A whole `synchronize` -/

theorem doneOf_cmdSync_ok (u : State) : doneOf .cmdSync [syncOk] u = u.complete [] := by
  rw [doneOf, State.checkSyncStatus, if_pos rfl]

theorem doneOf_cmdSync_bad {c : Byte} (hc : c ≠ syncOk) (u : State) :
    doneOf .cmdSync [c] u = u.raise (.protocol true (.badStatus c)) := if_neg hc

/-- A Sync whose primitives are answered completes where the ack and the status are right, and else ends in a
`SYNC_FAILURE`. -/
theorem run_sync (hx : InExchange .cmdSync .txPre s) (hs : Scripted [.ok x, .ok a, .ok y, .ok b] more s) :
    ∃ k p events e, k ≤ 4 ∧
      ((a.head? = some ackByte ∧ b.head? = some syncOk) ∧ core.run k s = .next ((s.played p events e).complete []) ∨
       ¬ (a.head? = some ackByte ∧ b.head? = some syncOk) ∧
         ∃ cause, core.run k s = .next ((s.played p events e).raise (.protocol true cause))) := by
  by_cases ha : a.head? = some ackByte
  · cases b with
    | nil =>
      obtain ⟨events, e, h⟩ := run_shortResponse (i := .cmdSync) (b := []) rfl hx ha Nat.one_pos hs
      exact ⟨4, _, _, _, by decide, .inr ⟨by simp, _, h⟩⟩
    | cons c r =>
      obtain ⟨e, -, h⟩ :=
        run_response (i := .cmdSync) (b := c :: r) rfl Nat.one_ne_zero hx ha (Nat.succ_pos r.length) hs
      by_cases hc : c = syncOk
      · subst hc
        exact ⟨4, _, _, _, by decide, .inl ⟨⟨ha, rfl⟩, h.trans (congrArg _ (doneOf_cmdSync_ok _))⟩⟩
      · exact ⟨4, _, _, _, by decide, .inr ⟨by simp [hc], _, h.trans (congrArg _ (doneOf_cmdSync_bad hc _))⟩⟩
  · obtain ⟨cause, events, e, h⟩ := run_noAck hx ha hs
    exact ⟨2, _, _, _, by decide, .inr ⟨fun hok => ha hok.1, cause, h⟩⟩

end

theorem resultKind_syncFailure (stage : Bool) (cause : ProtocolCause) :
    resultKind ((OpError.protocol true cause).word stage) = 3 := by
  simp [OpError.word]

theorem syncFailure_ne_ok (stage : Bool) (cause : ProtocolCause) : (OpError.protocol true cause).word stage ≠ 0 := by
  intro h
  have hkind := resultKind_syncFailure stage cause
  rw [h] at hkind
  exact absurd hkind (by decide)

/-- Settles O51: an accepted Sync runs its exchange, which completes exactly on the right ack and status. -/
theorem synchronizeSucceedsExactly : Obligations.SynchronizeSucceedsExactly := by
  intro s rest more x a y b hready hs
  obtain ⟨u, hstep, hx, -, hc, hcmds, hresp, -, hscript⟩ := step_synchronize hready
  obtain ⟨k, p, events, e, hk, ⟨hok, hrun⟩ | ⟨hbad, cause, hrun⟩⟩ := run_sync hx (hscript.trans hs)
  · refine ⟨k + 1, _, Nat.succ_le_succ hk, (run_succ hstep k).trans hrun, endedWith_finish rfl hresp, hc, hcmds, ?_, ?_⟩
    · exact iff_of_true rfl hok
    · exact fun hne => absurd rfl hne
  · refine ⟨k + 1, _, Nat.succ_le_succ hk, (run_succ hstep k).trans hrun, endedWith_finish rfl hresp, hc, hcmds, ?_, ?_⟩
    · exact iff_of_false (syncFailure_ne_ok _ _) hbad
    · exact fun _ => resultKind_syncFailure _ _

/-- Settles O52: the frame of an accepted Sync, with its response read. -/
theorem syncFrameBytes : Obligations.SyncFrameBytes := by
  intro s rest more hready hs
  obtain ⟨u, hstep, hx, -, -, -, hresp, htrace, hscript⟩ := step_synchronize hready
  obtain ⟨e, he, hrun⟩ := run_response (i := .cmdSync) (b := [syncOk]) rfl Nat.one_ne_zero hx rfl (Nat.le_refl 1)
    (hscript.trans hs)
  refine ⟨_, ((run_succ hstep 4).trans hrun).trans (congrArg _ (doneOf_cmdSync_ok _)), endedWith_finish rfl hresp, he,
    ?_⟩
  exact congrArg (· ++ _) htrace

/-! ### A whole `readMemory` and a whole `writeMemory` -/

/-- Settles O54: the response is read whole, read short, or not read at all. -/
theorem readMemoryRun : Obligations.ReadMemoryRun := by
  intro s rest more a c d hready
  obtain ⟨u, hstep, ⟨hx, hr, hc, hcmds, hresp, htrace, hscript⟩, haddr, hcount⟩ := step_readMemory hready
  refine ⟨fun hne hlen hs => ?_, fun hlen hs => ?_, ?_⟩
  · have hn : responseLength (.cmdReadMem a c) ≠ 0 := fun h => hne (BitVec.eq_of_toNat_eq h)
    obtain ⟨e, he, hrun⟩ := run_response rfl hn hx rfl hlen.ge (hscript.trans hs)
    have htake : d.take (responseLength (.cmdReadMem a c)) = d := List.take_of_length_le hlen.le
    rw [htake] at hrun
    refine ⟨_, (run_succ hstep 4).trans hrun, endedWith_finish rfl hresp, haddr, hcount, hc, hcmds, he, ?_⟩
    exact congrArg (· ++ _) htrace
  · obtain ⟨events, e, hrun⟩ := run_shortResponse rfl hx rfl hlen (hscript.trans hs)
    have hword := word_shortResponse (.cmdReadMem a c) d.length (u.played .rxResp events e)
    have hstage : stageBit (u.played .rxResp events e) = 0 := if_neg (hr ▸ RunSeq.noConfusion)
    rw [hstage] at hword
    exact ⟨_, (run_succ hstep 4).trans hrun, endedWith_finish hword hresp, hc⟩
  · rintro rfl hs
    obtain ⟨t, hrun, ⟨httrace, htscript, -⟩, -, htresp⟩ :=
      run_bareFrame (i := .cmdReadMem a 0) (more := more) rfl rfl hx (hscript.trans hs)
    refine ⟨t.complete [], (run_succ hstep 3).trans hrun, endedWith_finish rfl (htresp.trans hresp), htscript, ?_⟩
    exact httrace.trans (congrArg (· ++ _) htrace)

/-- Settles O55: an accepted write has a frame without a response. -/
theorem writeMemoryRun : Obligations.WriteMemoryRun := by
  intro s rest more a d hready hd hs
  obtain ⟨u, hstep, ⟨hx, hr, hc, hcmds, hresp, htrace, hscript⟩, haddr, hdata, hcount⟩ := step_writeMemory hd hready
  obtain ⟨t, hrun, ⟨httrace, htscript, ⟨htconn, -⟩, ⟨htaddr, htcount, htdata, -⟩, -, htcmds, -⟩, htrun, htresp⟩ :=
    run_bareFrame (i := .cmdWriteMem a d) (more := more) rfl rfl hx (hscript.trans hs)
  have hdone : doneOf (.cmdWriteMem a d) [] t = t.complete [] :=
    State.afterWrite_of_ne_regs (by simp [htrun, hr])
  refine ⟨_, ((run_succ hstep 3).trans hrun).trans (congrArg _ hdone), endedWith_finish rfl (htresp.trans hresp),
    htaddr.trans haddr, htdata.trans hdata, ?_, htconn.trans hc, htcmds.trans hcmds, htscript, ?_⟩
  · exact (congrArg BitVec.toNat htcount).trans hcount
  · exact httrace.trans (congrArg (· ++ _) htrace)

end Sys2Proof.Machine
end

section
/-! A write of more data than one frame carries (R142, R208). -/

namespace Sys2Proof.Machine

open Sys2Proof.Safety

theorem fitsOneWrite_eq_false {d : Bytes} (hd : 65535 < d.length) : fitsOneWrite d = false :=
  decide_eq_false (Nat.not_le.2 hd)

/-- The size check stands before the latch and before the gate of R103. -/
theorem hostBody_writeMemory_oversize {a : Addr} {d : Bytes} (hd : 65535 < d.length) (s : State) :
    hostBody (.hostWriteMemory a d) s = s.refuse := by
  simp [hostBody, fitsOneWrite_eq_false hd]

/-- Settles O45: at `IDLE` the port runs the refusal, whatever `CONN` is. -/
theorem oversizeWriteIsRefused : Obligations.OversizeWriteIsRefused := by
  intro a d s hf hp hd
  rw [exec_host_idle rfl hf hp, hostBody_writeMemory_oversize hd]
  rfl

end Sys2Proof.Machine
end

section
/-! What an error does (R200, R207): a response a step delivers is a success, or comes from a `raise`. -/

namespace Sys2Proof.Machine

open Sys2Proof.Safety

/-- No error is reported as `OK` (R200). -/
theorem resultKind_word_ne_zero (e : OpError) (stage : Bool) : resultKind (e.word stage) ≠ 0 := by
  cases e with
  | transport c => simp [OpError.word]
  | protocol isSync c => cases isSync <;> simp [OpError.word]
  | notConnected => simp [OpError.word]

/-- What leads from `s` to `t` is a `raise`, with no response delivered before it, and no connection register or sticky bit
changed. -/
abbrev RaisesError (s t : State) : Prop :=
  ∃ (e : OpError) (u : State), t = u.raise e ∧ u.responses = s.responses ∧ KeepsConnection s u ∧ KeepsSticky s u

/-- The response delivered on the way from `s` to `t`, if there is one: a success, or that of a `raise`. -/
inductive Responds (s t : State) : Prop
  | silent (h : t.responses = s.responses)
  | success (d : Bytes) (h : t.responses = s.responses ++ [⟨0, d⟩])
  | error (h : RaisesError s t)

theorem HostMove.responds {i : Instr} {s t : State} (h : HostMove i s t) : Responds s t := by
  cases h with
  | refuse hi => exact .silent rfl
  | fault hi hc => exact .silent rfl
  | close hi hc => exact .success [] rfl
  | opened p x hi hc ha => exact .success [] rfl
  | openFailed p hi hc ha => exact .error ⟨_, _, rfl, rfl, ⟨rfl, rfl, rfl⟩, rfl, rfl⟩
  | openPending p hi hc ha => exact .silent rfl
  | start hi hc => exact .silent (by simp [hi.begin_frame, hi.latch_frame])
  | notConnected hi hc =>
    obtain ⟨hconn, hsticky, ⟨-, -, hresponses⟩, -⟩ := hi.latch_frame s.takeCommand
    exact .error ⟨_, _, rfl, hresponses, hconn, hsticky⟩

theorem WireMove.responds {i : Instr} {s t : State} (h : WireMove i s t) : Responds s t := by
  cases h with
  | pending ha => exact .silent rfl
  | advance ha => exact .silent rfl
  | fail e he => exact .error ⟨e, _, rfl, rfl, ⟨rfl, rfl, rfl⟩, rfl, rfl⟩
  | badStatus b hi hb => exact .error ⟨_, _, rfl, rfl, ⟨rfl, rfl, rfl⟩, rfl, rfl⟩
  | complete d ha => exact .success _ rfl
  | execute d ha hr => exact .silent rfl

theorem StepMove.responds {s t : State} (h : StepMove s t) : Responds s t := by
  cases h with
  | wait hp hc => exact .silent rfl
  | host hp hc hi hm => exact hm.responds
  | wire hp hi hfetch hm => exact hm.responds

/-- A response that is no success comes from a `raise`. -/
theorem Responds.raisesError {s t : State} {r : Response} (h : Responds s t)
    (hresp : t.responses = s.responses ++ [r]) (hr : r.result ≠ 0) : RaisesError s t := by
  cases h with
  | silent hsame => simp [hsame] at hresp
  | success d hok =>
    have hrd : ⟨0, d⟩ = r := by simpa [hok] using hresp
    exact absurd (hrd ▸ rfl) hr
  | error he => exact he

/-- The effects R207 lists, read off a `raise` and the response it delivers. -/
theorem RaisesError.endedWith {s t : State} {r : Response} (h : RaisesError s t)
    (hresp : t.responses = s.responses ++ [r]) :
    EndedWith r.result [] s t ∧ resultKind r.result ≠ 0 ∧ KeepsConnection s t ∧ KeepsSticky s t := by
  obtain ⟨e, u, rfl, hu, hconn, hsticky⟩ := h
  have hdelivered : (u.raise e).responses = s.responses ++ [⟨e.word (decide (u.runseq = .exec)), []⟩] :=
    congrArg (· ++ _) hu
  have hr : r = ⟨e.word (decide (u.runseq = .exec)), []⟩ := by simpa using hresp.symm.trans hdelivered
  subst hr
  exact ⟨endedWith_finish rfl hu, resultKind_word_ne_zero e _, hconn, hsticky⟩

/-- Settles O25: such a response is that of a `raise`, and in an exchange the frame of the wire commands gives the rest. -/
theorem errorEndsOperation : Obligations.ErrorEndsOperation := by
  intro s t r _ hreset h hresp hr
  obtain ⟨-, hm⟩ := stepMove_of_step hreset h
  obtain ⟨hend, hkind, hconn, hsticky⟩ := (hm.responds.raisesError hresp hr).endedWith hresp
  refine ⟨hend, hkind, hconn, hsticky, fun hp => ?_⟩
  cases hm with
  | wait hidle hc => exact absurd hidle hp
  | host hidle hc hi hm => exact absurd hidle hp
  | wire hp' hi hfetch hm =>
    obtain ⟨-, hoperands, -, hcmds, -⟩ := hm.frame
    exact ⟨hoperands, hcmds⟩

end Sys2Proof.Machine
end

section
/-! Reset, and a transport that does not answer (R240, R241, R252). -/

namespace Sys2Proof.Machine

open Sys2Proof.Safety

/-! ### Reset -/

/-- At reset no bit of `STATUS` is set (R29, R240). -/
theorem State.status_reset : State.reset.status = 0 := by decide

/-- A reset leaves the reset values and what is not the block's: the two ports and what is behind the transport port. The
one primitive is the `TClose` that releases an open transport. -/
theorem State.hwReset_eq (s : State) :
    s.hwReset = { State.reset with
      cmds := s.cmds, responses := s.responses, env := s.env
      trace := s.trace ++ if s.conn = .connected then [⟨.tClose, .ok []⟩] else [] } := by
  unfold State.hwReset
  split
  · rfl
  · simp

/-- Settles O14: reset comes before anything else a step can do, and what it leaves is given by `State.hwReset_eq`. -/
theorem resetFromAnyState : Obligations.ResetFromAnyState := by
  intro s hr
  refine ⟨s.hwReset, step_of_resetReq hr, ?_⟩
  rw [State.hwReset_eq]
  refine ⟨rfl, rfl, rfl, rfl, rfl, rfl, rfl, State.status_reset, rfl, rfl, rfl, rfl, fun hc => ?_, fun hc => ?_⟩
  · simp [hc]
  · simp [hc]

/-- Settles O12: the values stand in `State.reset`, and with no command at the port the block waits. -/
theorem resetValues : Obligations.ResetValues :=
  ⟨rfl, rfl, rfl, rfl, rfl, rfl, rfl, rfl, rfl, State.status_reset,
    step_of_fetch_wait (fetch_wait rfl rfl rfl rfl)⟩

/-! ### Primitives without an answer -/

/-- A primitive that is not answered moves nothing but what is behind the port. -/
theorem State.issue_unanswered {s : State} {p : Prim} (ha : s.env.answer p = .silent) :
    s.issue p = { s with env := s.env.after p } := by
  simp [State.issue, ha, Prim.events_silent]

/-- An exchange waits in its phase while the primitive of the phase is not answered (R252). -/
theorem step_unanswered {s : State} {i : Instr} (hr : s.resetReq = false) (hf : s.fault = false) (hp : s.phase ≠ .idle)
    (hi : s.inFlight = some i) (ha : s.env.answer (phasePrim i s.phase) = .silent) :
    step s = .next { s with env := s.env.after (phasePrim i s.phase) } := by
  obtain ⟨body, hb⟩ := encodeBody_inFlight hi
  rw [step_of_fetch_run (fetch_inFlight hr hf hp hi), exec_wire hb, act_ok hf, ← State.issue_unanswered ha]
  obtain ⟨-, ht⟩ | ⟨hadv, -⟩ | ⟨e, herr, -⟩ | ⟨d, hdone, -⟩ :=
    State.exchange_cases i (decide (i = .cmdSync)) (startOf i) (doneOf i) hp
  · rw [ht]
  · exact absurd ha hadv.answered.2
  · exact absurd ha (PhaseError.answered herr).2
  · exact absurd ha hdone.answered.2

/-- While the script answers nothing, a run in an exchange moves nothing but what is behind the port. -/
theorem run_unanswered {i : Instr} {n : Nat} {more : List (Option Answer)} {s : State} (hr : s.resetReq = false)
    (hf : s.fault = false) (hp : s.phase ≠ .idle) (hi : s.inFlight = some i)
    (hs : s.env.script = List.replicate n (some .silent) ++ more) :
    ∃ e, core.run n s = .next { s with env := e } := by
  induction n generalizing s with
  | zero => exact ⟨s.env, rfl⟩
  | succ n ih =>
    have hprim := phasePrim_ne_tClose i hp
    have ha : s.env.answer (phasePrim i s.phase) = .silent := by
      rw [Env.answer_scripted hs hprim]
      cases phasePrim i s.phase <;> rfl
    have hrest : (s.env.after (phasePrim i s.phase)).script = List.replicate n (some .silent) ++ more := by
      rw [Env.after_script _ hprim, hs]
      rfl
    obtain ⟨e, hrun⟩ := ih (s := { s with env := s.env.after (phasePrim i s.phase) }) hr hf hp hi hrest
    exact ⟨e, (run_succ (step_unanswered hr hf hp hi ha) n).trans hrun⟩

/-- Settles O28: the exchange in flight has its wire command, and of the state only what is behind the port moves. -/
theorem unansweredPrimitiveHangs : Obligations.UnansweredPrimitiveHangs := by
  intro n s more hinv hp hr hs
  obtain ⟨i, hi⟩ := exists_inFlight hinv hp
  obtain ⟨e, hrun⟩ := run_unanswered hr (fault_of_phase_ne_idle hinv hp) hp hi hs
  exact ⟨{ s with env := e }, hrun, ⟨rfl, rfl, rfl⟩, ⟨rfl, rfl, rfl⟩, rfl, ⟨rfl, rfl, rfl⟩, ⟨rfl, rfl, rfl, rfl⟩,
    ⟨rfl, rfl⟩, rfl, rfl, decide_eq_true hp⟩

end Sys2Proof.Machine
end
